-- ==== Sys2Proof/Word.lean ====
section
/-! DEFINITION. The word types of the spec (00_scope.md R14, R15) and the plainest arithmetic on them. -/

namespace Sys2Proof

/-- A 32-bit word of the command port, a tick, a bus error value (R15, R32). -/
abbrev Word := BitVec 32

/-- A 16-bit pattern: one axis of a sample, a PWM operand, a speed (R15, R84). -/
abbrev Half := BitVec 16

/-- A byte: a device register, a bus byte, a field of the command word (R14, R81). -/
abbrev Byte := BitVec 8

/-- A 7-bit bus device address (R50, D11). -/
abbrev DevAddr := BitVec 7

/-- Low byte of a 16-bit value, `v & 0xFF` (R172). -/
def Half.low (v : Half) : Byte := v.extractLsb' 0 8

/-- High byte of a 16-bit value, `v >> 8` (R172). -/
def Half.high (v : Half) : Byte := v.extractLsb' 8 8

end Sys2Proof
end

