-- ==== Sys2Proof/Syntax.lean ====
section
/-! DEFINITION. The commands of MTTC (30_encoding.md R88), one constructor per row of the opcode table, with decoded operands. -/

namespace Sys2Proof

/-- The four motors (R15), in the order in which the document lists them. -/
inductive Motor where
  | frontLeft
  | frontRight
  | rearLeft
  | rearRight
  deriving DecidableEq, Repr

/-- The two directions (R15). -/
inductive Direction where
  | forward
  | backward
  deriving DecidableEq, Repr

/-- The antagonist's direction, `not d` of R186 and R222. -/
def Direction.flip : Direction → Direction
  | .forward => .backward
  | .backward => .forward

/-- A 3-axis reading (R15). An axis is the 16-bit pattern of an `i16`; its value is `BitVec.toInt`. -/
structure Sample where
  x : Half
  y : Half
  z : Half
  deriving DecidableEq, Repr

/-- The sample `(0,0,0)`, with which the window is filled at reset (R28). -/
def Sample.zero : Sample := ⟨0, 0, 0⟩

/-- The 27 commands of R88. Slots, channels, window indices and byte counts are numbers (the rules compare them with a bound);
their encodable range is `Instr.wf`. Values the spec treats as bit patterns keep their width. -/
inductive Instr where
  | clkinit
  | time
  | stat
  | dnew (slot : Nat) (duration : Word)
  | dpoll (slot : Nat)
  | inew (slot : Nat) (period : Word)
  | ipoll (slot : Nat)
  | wrreg (dev : DevAddr) (reg : Byte) (n : Nat) (data : Word)
  | rdreg (dev : DevAddr) (reg : Byte) (ai : Bool) (n : Nat)
  | accinit (rate : BitVec 4)
  | accrd
  | acctemp
  | maginit (rate : BitVec 3)
  | magrd
  | magtemp
  | pwminit
  | pwmset (ch : Nat) (on off : Half)
  | pwmsetm (mask : Half) (on off : Half)
  | motspd (motor : Motor) (dir : Direction) (speed : Half)
  | motoff
  | motall (dir : Direction) (speed : Half)
  | fpush (sample : Sample)
  | fmean
  | fget (idx : Nat)
  | cceval (sample : Sample)
  | cccycle
  | ccstep (sample : Sample)
  deriving DecidableEq, Repr

/-- The row of the opcode table a command stands for (R88). -/
def Instr.mnemonic : Instr → String
  | .clkinit => "CLKINIT"
  | .time => "TIME"
  | .stat => "STAT"
  | .dnew _ _ => "DNEW"
  | .dpoll _ => "DPOLL"
  | .inew _ _ => "INEW"
  | .ipoll _ => "IPOLL"
  | .wrreg _ _ _ _ => "WRREG"
  | .rdreg _ _ _ _ => "RDREG"
  | .accinit _ => "ACCINIT"
  | .accrd => "ACCRD"
  | .acctemp => "ACCTEMP"
  | .maginit _ => "MAGINIT"
  | .magrd => "MAGRD"
  | .magtemp => "MAGTEMP"
  | .pwminit => "PWMINIT"
  | .pwmset _ _ _ => "PWMSET"
  | .pwmsetm _ _ _ => "PWMSETM"
  | .motspd _ _ _ => "MOTSPD"
  | .motoff => "MOTOFF"
  | .motall _ _ => "MOTALL"
  | .fpush _ => "FPUSH"
  | .fmean => "FMEAN"
  | .fget _ => "FGET"
  | .cceval _ => "CCEVAL"
  | .cccycle => "CCCYCLE"
  | .ccstep _ => "CCSTEP"

end Sys2Proof
end

