-- ==== Sys2Proof/Config.lean ====
section
/-! DEFINITION. The parameters: the values the document fixes (00_scope.md R12) as constants, the open ones (R13) as the record
`Config`, and `Config.board`, the parameters of the machine after reset. -/

namespace Sys2Proof

namespace Config

/-- `WINDOW_N` (R12): samples in the window. -/
def windowN : Nat := 5
/-- `MEAN_DEN` (R12): divisor of the mean. -/
def meanDen : Int := 5
/-- `THRESH` (R12): collision threshold, device units. -/
def thresh : Int := 10000
/-- `SETTLE_TICKS` (R12). -/
def settleTicks : Word := 1000
/-- `PWM_MAX` (R12): largest legal on or off value. -/
def pwmMax : Half := 0xFFF
/-- `PWM_NCH` (R12): channels of the PWM chip. -/
def pwmNch : Nat := 16
/-- `PWM_MODE_REG` (R12). -/
def pwmModeReg : Byte := 0x00
/-- `PWM_MODE_AI` (R12). -/
def pwmModeAi : Byte := 0x21
/-- `PWM_CH_BASE` (R12): base register of channel 0. -/
def pwmChBase : Nat := 0x06
/-- `PWM_ALL_BASE` (R12): the "all channels" alias. -/
def pwmAllBase : Byte := 0xFA
/-- `ACC_CTRL_REG` (R12). -/
def accCtrlReg : Byte := 0x20
/-- `ACC_OUT_REG` (R12). -/
def accOutReg : Byte := 0x28
/-- `AI_FLAG` (R12, C1): bit 7 of the start-register byte. -/
def aiFlag : Byte := 0x80
/-- `MAG_RATE_REG` (R12). -/
def magRateReg : Byte := 0x00
/-- `MAG_MODE_REG` (R12). -/
def magModeReg : Byte := 0x02
/-- `MAG_MODE_CONT` (R12). -/
def magModeCont : Byte := 0x00
/-- `MAG_OUT_REG` (R12). -/
def magOutReg : Byte := 0x03

end Config

/-- `CH_MAP : Motor x Direction -> 0..7` as the static table R186 asks for, one entry per pair. -/
structure ChMap where
  flForward : Fin 8
  flBackward : Fin 8
  frForward : Fin 8
  frBackward : Fin 8
  rlForward : Fin 8
  rlBackward : Fin 8
  rrForward : Fin 8
  rrBackward : Fin 8
  deriving DecidableEq, Repr

/-- Looks a pair up in the table: an exhaustive match over closed value sets (R186). -/
def ChMap.chan (t : ChMap) : Motor → Direction → Fin 8
  | .frontLeft, .forward => t.flForward
  | .frontLeft, .backward => t.flBackward
  | .frontRight, .forward => t.frForward
  | .frontRight, .backward => t.frBackward
  | .rearLeft, .forward => t.rlForward
  | .rearLeft, .backward => t.rlBackward
  | .rearRight, .forward => t.rrForward
  | .rearRight, .backward => t.rrBackward

/-- The eight entries of the table. -/
def ChMap.entries (t : ChMap) : List (Fin 8) :=
  [t.flForward, t.flBackward, t.frForward, t.frBackward, t.rlForward, t.rlBackward, t.rrForward, t.rrBackward]

/-- The constraint of R186: eight pairs onto 0..7 without a repeat, so a bijection. -/
def ChMap.wf (t : ChMap) : Bool := decide t.entries.Nodup

/-- The default table of R186 (D18). -/
def ChMap.dflt : ChMap := ⟨0, 1, 2, 3, 4, 5, 6, 7⟩

/-- The open parameters of R13 other than the slot counts, which are the lengths of the slot lists of the state.
`BusError` is any 32-bit value (D3) and needs no entry. -/
structure Config where
  accAddr : DevAddr
  magAddr : DevAddr
  pwmAddr : DevAddr
  accCtrlLow : BitVec 4
  chMap : ChMap
  driveSpeed : BitVec 12
  indFwd : Fin 9
  indBwd : Fin 9
  meanLo : Nat
  meanHi : Nat
  deriving DecidableEq, Repr

/-- The constraints R13 puts on the parameters that their types do not: `CH_MAP` is a bijection and
`0 <= MEAN_LO < MEAN_HI <= 5`. -/
def Config.wf (c : Config) : Bool :=
  c.chMap.wf && decide (c.meanLo < c.meanHi) && decide (c.meanHi ≤ Config.windowN)

namespace Config

/-- `ACC_ADDR`: OPEN (R13, D12), so a constant with no value (log 2). -/
opaque openAccAddr : DevAddr
/-- `MAG_ADDR`: OPEN (R13, D12; log 2). -/
opaque openMagAddr : DevAddr
/-- `PWM_ADDR`: OPEN (R13, D12; log 2). -/
opaque openPwmAddr : DevAddr
/-- `ACC_CTRL_LOW`: OPEN (R13, D13; log 2). -/
opaque openAccCtrlLow : BitVec 4
/-- `DRIVE_SPEED`: OPEN in 0..0xFFF (R13, D20; log 2). -/
opaque openDriveSpeed : BitVec 12
/-- `IND_FWD`: OPEN in 0..8 (R13, D26; log 2). -/
opaque openIndFwd : Fin 9
/-- `IND_BWD`: OPEN in 0..8 (R13, D26; log 2). -/
opaque openIndBwd : Fin 9

/-- `N_DELAY` after reset: the default of R13 (D9). DESIGN CHOICE, unsafe (log 3). -/
def defaultDelays : Nat := 4
/-- `N_INTERVAL` after reset: the default of R13 (D9). DESIGN CHOICE, unsafe (log 3). -/
def defaultIntervals : Nat := 4

/-- The parameters of the machine after reset: an OPEN one is a constant with no value (log 2), one with a default has
that default (R13, D18, D22). DESIGN CHOICE, unsafe for the defaults (log 3). -/
def board : Config :=
  { accAddr := openAccAddr
    magAddr := openMagAddr
    pwmAddr := openPwmAddr
    accCtrlLow := openAccCtrlLow
    chMap := ChMap.dflt
    driveSpeed := openDriveSpeed
    indFwd := openIndFwd
    indBwd := openIndBwd
    meanLo := 0
    meanHi := 5 }

end Config

end Sys2Proof
end

