-- ==== Sys2Proof/WellFormed.lean ====
section
/-! DEFINITION. Which commands have an encoding: each numeric operand fits its field (30_encoding.md R82). A value that fits its
field but is out of the command's range (a slot of 9 where there are 4) is well formed: it is encodable and raises RANGE (R89). -/

namespace Sys2Proof

/-- Every numeric operand fits the field R82 gives it. -/
def Instr.wf : Instr → Bool
  | .dnew slot _ => decide (slot < 256)
  | .dpoll slot => decide (slot < 256)
  | .inew slot _ => decide (slot < 256)
  | .ipoll slot => decide (slot < 256)
  | .wrreg _ _ n _ => decide (n < 16)
  | .rdreg _ _ _ n => decide (n < 16)
  | .pwmset ch _ _ => decide (ch < 256)
  | .fget idx => decide (idx < 256)
  | .clkinit => true
  | .time => true
  | .stat => true
  | .accinit _ => true
  | .accrd => true
  | .acctemp => true
  | .maginit _ => true
  | .magrd => true
  | .magtemp => true
  | .pwminit => true
  | .pwmsetm _ _ _ => true
  | .motspd _ _ _ => true
  | .motoff => true
  | .motall _ _ => true
  | .fpush _ => true
  | .fmean => true
  | .cceval _ => true
  | .cccycle => true
  | .ccstep _ => true

end Sys2Proof
end

