-- ==== Sys2Proof/Decode.lean ====
section
/-! DEFINITION. Decoding a request of three words to a command, or rejecting it by name (30_encoding.md R80 to R89), and the
encoder written from the same tables. -/

namespace Sys2Proof

/-- One request on the command port: three 32-bit words (R80). -/
structure Request where
  cmd : Word
  arg0 : Word
  arg1 : Word
  deriving DecidableEq, Repr

/-- Why a command word selects no row (R89), in the order in which decode checks (R242: opcode, then reserved bits). -/
inductive Reject where
  /-- The `op` field is no opcode of the table. -/
  | unknownOpcode (op : Byte)
  /-- The `op` field is an opcode, and a bit its format requires to be 0 is 1. -/
  | reservedBits (op : Byte)
  deriving DecidableEq, Repr

/-- Field `op` of the command word, `cmd[31:24]` (R81). -/
def opField (w : Word) : Byte := w.extractLsb' 24 8
/-- Field `a`, `cmd[23:16]` (R81). -/
def aField (w : Word) : Byte := w.extractLsb' 16 8
/-- Field `b`, `cmd[15:8]` (R81). -/
def bField (w : Word) : Byte := w.extractLsb' 8 8
/-- Field `c`, `cmd[7:0]` (R81). -/
def cField (w : Word) : Byte := w.extractLsb' 0 8
/-- `imm16 = {b, c} = cmd[15:0]` (R81). -/
def imm16 (w : Word) : Half := bField w ++ cField w

/-- Bits 15:0 of an operand word (R83, R84). -/
def lowHalf (w : Word) : Half := w.extractLsb' 0 16
/-- Bits 31:16 of an operand word (R83, R84). -/
def highHalf (w : Word) : Half := w.extractLsb' 16 16

/-- `unpack(arg)` of R83: x and y in the first operand word, z in the low half of the second, its high half ignored. -/
def unpack (arg0 arg1 : Word) : Sample := ⟨lowHalf arg0, highHalf arg0, lowHalf arg1⟩

/-- Motor codes (R85). -/
def motorOfBits (v : BitVec 2) : Motor :=
  match v.toNat with
  | 0 => .frontLeft
  | 1 => .frontRight
  | 2 => .rearLeft
  | _ => .rearRight

/-- Motor codes (R85). -/
def Motor.bits : Motor → BitVec 2
  | .frontLeft => 0
  | .frontRight => 1
  | .rearLeft => 2
  | .rearRight => 3

/-- Direction codes: 0 Forward, 1 Backward (R85). -/
def directionOfBit (b : Bool) : Direction := if b then .backward else .forward

/-- Direction codes: 0 Forward, 1 Backward (R29, R85). -/
def Direction.bit : Direction → Bool
  | .forward => false
  | .backward => true

/-- A command whose must-be-zero bits are checked (R82): `ok` says that they are all 0. -/
def requireZero (ok : Bool) (op : Byte) (i : Instr) : Except Reject Instr :=
  if ok then .ok i else .error (.reservedBits op)

/-- Formats N and S (R82): `a`, `b` and `c` are all 0. -/
def decodeNoFields (w : Word) (i : Instr) : Except Reject Instr :=
  requireZero (aField w == 0 && bField w == 0 && cField w == 0) (opField w) i

/-- Formats T, P and I (R82): field `a` is the operand, `b` and `c` are 0. -/
def decodeAField (w : Word) (i : Instr) : Except Reject Instr :=
  requireZero (bField w == 0 && cField w == 0) (opField w) i

/-- Reads a request (R80 to R88). The formats' checks are those of R82; operand words a command does not use are ignored (R80). -/
def decode (r : Request) : Except Reject Instr :=
  let w := r.cmd
  let a := aField w
  let b := bField w
  let c := cField w
  let op := opField w
  let on := lowHalf r.arg0
  let off := highHalf r.arg0
  let sample := unpack r.arg0 r.arg1
  match op.toNat with
  | 0x01 => decodeNoFields w .clkinit
  | 0x02 => decodeNoFields w .time
  | 0x03 => decodeNoFields w .stat
  | 0x10 => decodeAField w (.dnew a.toNat r.arg0)
  | 0x11 => decodeAField w (.dpoll a.toNat)
  | 0x12 => decodeAField w (.inew a.toNat r.arg0)
  | 0x13 => decodeAField w (.ipoll a.toNat)
  | 0x20 =>
    requireZero (a.extractLsb' 7 1 == 0 && c.extractLsb' 4 4 == 0) op
      (.wrreg (a.extractLsb' 0 7) b (c.extractLsb' 0 4).toNat r.arg0)
  | 0x21 =>
    requireZero (a.extractLsb' 7 1 == 0 && c.extractLsb' 4 3 == 0) op
      (.rdreg (a.extractLsb' 0 7) b (c.getLsbD 7) (c.extractLsb' 0 4).toNat)
  | 0x30 => requireZero (a == 0 && b == 0 && c.extractLsb' 4 4 == 0) op (.accinit (c.extractLsb' 0 4))
  | 0x31 => decodeNoFields w .accrd
  | 0x32 => decodeNoFields w .acctemp
  | 0x34 => requireZero (a == 0 && b == 0 && c.extractLsb' 3 5 == 0) op (.maginit (c.extractLsb' 0 3))
  | 0x35 => decodeNoFields w .magrd
  | 0x36 => decodeNoFields w .magtemp
  | 0x40 => decodeNoFields w .pwminit
  | 0x41 => decodeAField w (.pwmset a.toNat on off)
  | 0x42 => requireZero (a == 0) op (.pwmsetm (imm16 w) on off)
  | 0x50 =>
    requireZero (a.extractLsb' 3 5 == 0) op
      (.motspd (motorOfBits (a.extractLsb' 1 2)) (directionOfBit (a.getLsbD 0)) (imm16 w))
  | 0x51 => decodeNoFields w .motoff
  | 0x52 => requireZero (a.extractLsb' 1 7 == 0) op (.motall (directionOfBit (a.getLsbD 0)) (imm16 w))
  | 0x60 => decodeNoFields w (.fpush sample)
  | 0x61 => decodeNoFields w .fmean
  | 0x62 => decodeAField w (.fget a.toNat)
  | 0x70 => decodeNoFields w (.cceval sample)
  | 0x71 => decodeNoFields w .cccycle
  | 0x73 => decodeNoFields w (.ccstep sample)
  | _ => .error (.unknownOpcode op)

/-- The request whose bits, numbered as the opcode table numbers them, are the low `nbits` bits of `w`: bit 0 is the least
significant bit of `cmd`, `arg[0]` starts at bit 32 and `arg[1]` at bit 64 (R80, log 24). -/
def requestOfBits (nbits w : Nat) : Request :=
  let v := w % 2 ^ nbits
  ⟨BitVec.ofNat 32 v, BitVec.ofNat 32 (v / 2 ^ 32), BitVec.ofNat 32 (v / 2 ^ 64)⟩

/-- The command the decoder reads from an instruction whose bits are `w`, numbered as spec/opcode_table.json numbers them. -/
def decodeTableWord (nbits w : Nat) : Option Instr :=
  match decode (requestOfBits nbits w) with
  | .ok i => some i
  | .error _ => none

/-! ## The encoder -/

/-- The opcode of a command (R88). -/
def Instr.op : Instr → Byte
  | .clkinit => 0x01
  | .time => 0x02
  | .stat => 0x03
  | .dnew _ _ => 0x10
  | .dpoll _ => 0x11
  | .inew _ _ => 0x12
  | .ipoll _ => 0x13
  | .wrreg _ _ _ _ => 0x20
  | .rdreg _ _ _ _ => 0x21
  | .accinit _ => 0x30
  | .accrd => 0x31
  | .acctemp => 0x32
  | .maginit _ => 0x34
  | .magrd => 0x35
  | .magtemp => 0x36
  | .pwminit => 0x40
  | .pwmset _ _ _ => 0x41
  | .pwmsetm _ _ _ => 0x42
  | .motspd _ _ _ => 0x50
  | .motoff => 0x51
  | .motall _ _ => 0x52
  | .fpush _ => 0x60
  | .fmean => 0x61
  | .fget _ => 0x62
  | .cceval _ => 0x70
  | .cccycle => 0x71
  | .ccstep _ => 0x73

/-- A command word from its four fields (R81). -/
def cmdWord (op a b c : Byte) : Word := op ++ a ++ b ++ c

/-- A command word with a 16-bit immediate in the place of `b` and `c` (R81). -/
def cmdWordImm (op a : Byte) (imm : Half) : Word := op ++ a ++ imm

/-- `pack(s)` of R83, first word: `{u16(y), u16(x)}`. -/
def packLow (s : Sample) : Word := s.y ++ s.x
/-- `pack(s)` of R83, second word: `zext_32(u16(z))`. -/
def packHigh (s : Sample) : Word := s.z.setWidth 32

/-- A request without operand words. -/
def plainRequest (w : Word) : Request := ⟨w, 0, 0⟩

/-- The words of a well-formed command (R82, R88); operand words the command ignores are 0. -/
def encode : Instr → Request
  | .clkinit => plainRequest (cmdWord 0x01 0 0 0)
  | .time => plainRequest (cmdWord 0x02 0 0 0)
  | .stat => plainRequest (cmdWord 0x03 0 0 0)
  | .dnew slot duration => ⟨cmdWord 0x10 (BitVec.ofNat 8 slot) 0 0, duration, 0⟩
  | .dpoll slot => plainRequest (cmdWord 0x11 (BitVec.ofNat 8 slot) 0 0)
  | .inew slot period => ⟨cmdWord 0x12 (BitVec.ofNat 8 slot) 0 0, period, 0⟩
  | .ipoll slot => plainRequest (cmdWord 0x13 (BitVec.ofNat 8 slot) 0 0)
  | .wrreg dev reg n data => ⟨cmdWord 0x20 (0#1 ++ dev) reg (0#4 ++ BitVec.ofNat 4 n), data, 0⟩
  | .rdreg dev reg ai n => plainRequest (cmdWord 0x21 (0#1 ++ dev) reg (BitVec.ofBool ai ++ 0#3 ++ BitVec.ofNat 4 n))
  | .accinit rate => plainRequest (cmdWord 0x30 0 0 (0#4 ++ rate))
  | .accrd => plainRequest (cmdWord 0x31 0 0 0)
  | .acctemp => plainRequest (cmdWord 0x32 0 0 0)
  | .maginit rate => plainRequest (cmdWord 0x34 0 0 (0#5 ++ rate))
  | .magrd => plainRequest (cmdWord 0x35 0 0 0)
  | .magtemp => plainRequest (cmdWord 0x36 0 0 0)
  | .pwminit => plainRequest (cmdWord 0x40 0 0 0)
  | .pwmset ch on off => ⟨cmdWord 0x41 (BitVec.ofNat 8 ch) 0 0, off ++ on, 0⟩
  | .pwmsetm mask on off => ⟨cmdWordImm 0x42 0 mask, off ++ on, 0⟩
  | .motspd motor dir speed => plainRequest (cmdWordImm 0x50 (0#5 ++ motor.bits ++ BitVec.ofBool dir.bit) speed)
  | .motoff => plainRequest (cmdWord 0x51 0 0 0)
  | .motall dir speed => plainRequest (cmdWordImm 0x52 (0#7 ++ BitVec.ofBool dir.bit) speed)
  | .fpush s => ⟨cmdWord 0x60 0 0 0, packLow s, packHigh s⟩
  | .fmean => plainRequest (cmdWord 0x61 0 0 0)
  | .fget idx => plainRequest (cmdWord 0x62 (BitVec.ofNat 8 idx) 0 0)
  | .cceval s => ⟨cmdWord 0x70 0 0 0, packLow s, packHigh s⟩
  | .cccycle => plainRequest (cmdWord 0x71 0 0 0)
  | .ccstep s => ⟨cmdWord 0x73 0 0 0, packLow s, packHigh s⟩

/-! ## The opcode table -/

/-- One row of the table of R88: a word `w` selects it iff `w &&& mask = pattern`. -/
structure TableRow where
  mnemonic : String
  pattern : Word
  mask : Word
  deriving DecidableEq, Repr

/-- R88: "a word `w` selects the row iff `(w & mask) = match`". -/
def TableRow.selects (row : TableRow) (w : Word) : Bool := w &&& row.mask == row.pattern

/-- The rows of units TICK, DLY and RBC (R88). -/
def opcodeRowsLow : List TableRow :=
  [⟨"CLKINIT", 0x01000000, 0xFFFFFFFF⟩,
   ⟨"TIME", 0x02000000, 0xFFFFFFFF⟩,
   ⟨"STAT", 0x03000000, 0xFFFFFFFF⟩,
   ⟨"DNEW", 0x10000000, 0xFF00FFFF⟩,
   ⟨"DPOLL", 0x11000000, 0xFF00FFFF⟩,
   ⟨"INEW", 0x12000000, 0xFF00FFFF⟩,
   ⟨"IPOLL", 0x13000000, 0xFF00FFFF⟩,
   ⟨"WRREG", 0x20000000, 0xFF8000F0⟩,
   ⟨"RDREG", 0x21000000, 0xFF800070⟩]

/-- The rows of SNS and PWM, chip part (R88). -/
def opcodeRowsMid : List TableRow :=
  [⟨"ACCINIT", 0x30000000, 0xFFFFFFF0⟩,
   ⟨"ACCRD", 0x31000000, 0xFFFFFFFF⟩,
   ⟨"ACCTEMP", 0x32000000, 0xFFFFFFFF⟩,
   ⟨"MAGINIT", 0x34000000, 0xFFFFFFF8⟩,
   ⟨"MAGRD", 0x35000000, 0xFFFFFFFF⟩,
   ⟨"MAGTEMP", 0x36000000, 0xFFFFFFFF⟩,
   ⟨"PWMINIT", 0x40000000, 0xFFFFFFFF⟩,
   ⟨"PWMSET", 0x41000000, 0xFF00FFFF⟩,
   ⟨"PWMSETM", 0x42000000, 0xFFFF0000⟩]

/-- The rows of PWM, motor part, FLT and CCF (R88). -/
def opcodeRowsHigh : List TableRow :=
  [⟨"MOTSPD", 0x50000000, 0xFFF80000⟩,
   ⟨"MOTOFF", 0x51000000, 0xFFFFFFFF⟩,
   ⟨"MOTALL", 0x52000000, 0xFFFE0000⟩,
   ⟨"FPUSH", 0x60000000, 0xFFFFFFFF⟩,
   ⟨"FMEAN", 0x61000000, 0xFFFFFFFF⟩,
   ⟨"FGET", 0x62000000, 0xFF00FFFF⟩,
   ⟨"CCEVAL", 0x70000000, 0xFFFFFFFF⟩,
   ⟨"CCCYCLE", 0x71000000, 0xFFFFFFFF⟩,
   ⟨"CCSTEP", 0x73000000, 0xFFFFFFFF⟩]

/-- The 27 rows of R88. -/
def opcodeTable : List TableRow := opcodeRowsLow ++ opcodeRowsMid ++ opcodeRowsHigh

end Sys2Proof
end

