-- ==== Sys2Proof/Machine/State.lean ====
section
/-! DEFINITION. The state of MTTC as plain data (10_state.md R20 to R44), the reasons a step can stop, and the state after reset. -/

namespace Sys2Proof.Machine

/-- The status values of a response (30_encoding.md R90). -/
inductive Status where
  | ok
  | wouldBlock
  | busError
  | range
  | unsupported
  | unarmed
  | illegal
  deriving DecidableEq, Repr

/-- The response words and status of the command port (R32). -/
structure Response where
  status : Status
  res0 : Word
  res1 : Word
  deriving DecidableEq, Repr

/-- One delay slot (R25). -/
structure DelaySlot where
  armed : Bool
  done : Bool
  target : Word
  deriving DecidableEq, Repr

/-- One interval slot (R26). -/
structure IntervalSlot where
  armed : Bool
  target : Word
  period : Word
  deriving DecidableEq, Repr

/-- A slot after reset (R20). The target is the model's choice: R20 leaves it unspecified. DESIGN CHOICE, unsafe (log 4). -/
def DelaySlot.unarmed : DelaySlot := ⟨false, false, 0⟩

/-- A slot after reset (R20). Target and period are the model's choice. DESIGN CHOICE, unsafe (log 4). -/
def IntervalSlot.unarmed : IntervalSlot := ⟨false, 0, 0⟩

/-- The sample window `win[0..4]`, oldest first (R28): always exactly five samples. -/
structure Window where
  w0 : Sample
  w1 : Sample
  w2 : Sample
  w3 : Sample
  w4 : Sample
  deriving DecidableEq, Repr

/-- The window as a list, oldest first. -/
def Window.toList (w : Window) : List Sample := [w.w0, w.w1, w.w2, w.w3, w.w4]

/-- "pre-filled with zero samples at construction" (R28, R44). -/
def Window.zero : Window := ⟨Sample.zero, Sample.zero, Sample.zero, Sample.zero, Sample.zero⟩

/-- The two bus transactions (20_memory.md R52 to R54). -/
inductive Transaction where
  /-- `write(address, bytes)`: the bytes in the order in which they are sent (R53). -/
  | write (dev : DevAddr) (bytes : List Byte)
  /-- `write_then_read(address, write_bytes, buffer of n bytes)` (R54). -/
  | writeThenRead (dev : DevAddr) (wbytes : List Byte) (n : Nat)
  deriving DecidableEq, Repr

/-- An answer of BUS (R53 to R56): `Ok` with the bytes read (none for a write), or `Err(e)` with an opaque error value. -/
inductive BusAnswer where
  | ok (bytes : List Byte)
  | err (e : Word)
  deriving DecidableEq, Repr

/-- The bus transport port: SEQ has at most one transaction outstanding (R57) and holds until BUS answers it (R53, R54).
DEDUCED, safe (log 7). -/
inductive BusPort where
  | free
  | outstanding (tx : Transaction)
  | answered (tx : Transaction) (ans : BusAnswer)
  deriving DecidableEq, Repr

/-- One outward event of the history (R43). `op` is the opcode of the command that issued the transaction; `ans` is `none` for
a transaction that reset abandoned before an answer came (R271). The record is the model's (log 8). -/
inductive Event where
  | transaction (op : Byte) (tx : Transaction) (ans : Option BusAnswer)
  | indicator (value : Fin 9)
  deriving DecidableEq, Repr

/-- The sequencer position (R40): IDLE, or position `k` of the command latched in `cmd`, `arg0`, `arg1`; the `op` of `(op, k)`
is the field `op` of `cmd` (log 11). -/
inductive Pos where
  | idle
  | busy (k : Nat)
  deriving DecidableEq, Repr

/-- What moves next (R10, R41): a step of an agent outside MTTC with its data, a step of TICKH, the reset input, or a SEQ step.
The list form of the schedule is the model's. DESIGN CHOICE, safe (log 6). -/
inductive Input where
  /-- A timer event of TMR (R110). -/
  | timer
  /-- The step of TICKH (R111). -/
  | handler
  /-- The reset input is asserted (R270). -/
  | reset
  /-- HOST presents a command (R10, R261). -/
  | request (r : Request)
  /-- BUS answers the outstanding transaction (R55). -/
  | bus (ans : BusAnswer)
  /-- BUS answers a transaction that an earlier reset abandoned (R271). -/
  | lateBus (ans : BusAnswer)
  /-- SEQ takes its step (R40). -/
  | seq
  deriving DecidableEq, Repr

/-- The state: every item of R20, the response registers of R32, the bus port, and the model's own fields (`respValid`, `cfg`,
`inputs`, `history`; logs 1, 5, 6, 8). -/
structure State where
  /-- The open parameters of R13; no step changes them (log 1). -/
  cfg : Config
  /-- `tick` (R22). -/
  tick : Word
  /-- `tmr_en` (R23). -/
  tmrEn : Bool
  /-- `tick_pend` (R24). -/
  tickPend : Bool
  /-- `dly[0 .. N_DELAY-1]` (R25). -/
  dly : List DelaySlot
  /-- `ivl[0 .. N_INTERVAL-1]` (R26). -/
  ivl : List IntervalSlot
  /-- `win[0..4]` (R28). -/
  win : Window
  /-- `cc_dir` (R29). -/
  ccDir : Direction
  /-- `cc_live` (R30). -/
  ccLive : Sample
  /-- `cc_settle` (R30). -/
  ccSettle : Word
  /-- `sticky` (R31). -/
  sticky : BitVec 5
  /-- `cmd` (R32). -/
  cmd : Word
  /-- `arg[0]` (R32). -/
  arg0 : Word
  /-- `arg[1]` (R32). -/
  arg1 : Word
  /-- `pos` (R40). -/
  pos : Pos
  /-- `status`, `res[0]`, `res[1]` (R32). -/
  resp : Response
  /-- The response of a finished command stands on the command port (log 5). -/
  respValid : Bool
  /-- The bus transport port (log 7). -/
  bus : BusPort
  /-- The schedule and the oracle of R41, the next move first (log 6). -/
  inputs : List Input
  /-- The history of R43, newest event first (log 8). -/
  history : List Event
  deriving DecidableEq, Repr

/-- Why a step stops with a fault. No command raises one. -/
inductive Fault where
  /-- Raised by BUS's step alone, when the schedule holds an answer that R54 says BUS never gives: an `Ok` whose byte count is
  not the transaction's. Safe: the model stops and proves nothing of such a run (log 14). -/
  | malformedAnswer
  deriving DecidableEq, Repr

/-- Why a step is refused. -/
inductive Refusal where
  /-- Raised by an arm of `exec` whose instruction has no meaning yet. Safe: the model stops. No arm raises it now. -/
  | notModelled (mnemonic : String)
  deriving DecidableEq, Repr

/-- The outcome of a step of this machine. -/
abbrev Outcome := Host.Outcome State Fault Refusal

/-- `N_DELAY` (R13): how many delay slots there are. -/
def State.nDelay (s : State) : Nat := s.dly.length

/-- `N_INTERVAL` (R13): how many interval slots there are. -/
def State.nInterval (s : State) : Nat := s.ivl.length

/-- The machine right after reset (R20, R44, R270, R272). The values the spec gives: `tick`, `tmr_en`, `tick_pend`, `armed` and
`done` 0, the window five zero samples, `cc_dir` Forward, `sticky` 0, `pos` IDLE. The model's: log 3 (parameters with a
default), log 4 (values R20 leaves unspecified), log 5 (the response port), logs 6 to 8 (schedule, bus port, history). -/
def State.reset : State :=
  { cfg := Config.board
    tick := 0
    tmrEn := false
    tickPend := false
    dly := List.replicate Config.defaultDelays DelaySlot.unarmed
    ivl := List.replicate Config.defaultIntervals IntervalSlot.unarmed
    win := Window.zero
    ccDir := .forward
    ccLive := Sample.zero
    ccSettle := 0
    sticky := 0
    cmd := 0
    arg0 := 0
    arg1 := 0
    pos := .idle
    resp := ⟨.ok, 0, 0⟩
    respValid := false
    bus := .free
    inputs := []
    history := [] }

end Sys2Proof.Machine
end

