-- ==== Sys2Proof/Machine/Flags.lean ====
section
/-! DEFINITION. The flags: status codes (30_encoding.md R90), the sticky bits (10_state.md R31) and the word `STAT` reads
(40_clock_tick.md R115). MTTC has no arithmetic condition codes (R31). -/

namespace Sys2Proof.Machine

/-- The 8-bit code of a status (R90). -/
def Status.code : Status → Byte
  | .ok => 0x00
  | .wouldBlock => 0x01
  | .busError => 0x02
  | .range => 0x03
  | .unsupported => 0x04
  | .unarmed => 0x05
  | .illegal => 0x06

/-- The sticky bit a status sets (R31): `OK` and `WOULD_BLOCK` set nothing. -/
def stickyBit : Status → BitVec 5
  | .ok => 0b00000
  | .wouldBlock => 0b00000
  | .busError => 0b00001
  | .range => 0b00010
  | .unsupported => 0b00100
  | .unarmed => 0b01000
  | .illegal => 0b10000

/-- `sticky[bit(S)] <- 1` (R243). -/
def setSticky (st : Status) (sticky : BitVec 5) : BitVec 5 := sticky ||| stickyBit st

/-- The word `STAT` returns (R115): bit 0 `tmr_en`, bit 1 `tick_pend`, bit 2 `cc_dir`, bits 7:3 zero, bits 12:8 `sticky`. -/
def statWord (sticky : BitVec 5) (dir : Direction) (pend en : Bool) : Word :=
  (sticky ++ 0#5 ++ BitVec.ofBool dir.bit ++ BitVec.ofBool pend ++ BitVec.ofBool en).setWidth 32

end Sys2Proof.Machine
end

