-- ==== Sys2Proof/Machine/Operands.lean ====
section
/-! DEFINITION. Operand and data forms: byte lanes of words (30_encoding.md R86), sample decoding of the two sensors
(43_sensor_drivers.md R153, R160), control bytes (R151, R159) and the transactions of the codec and the PWM driver
(42_register_bus_codec.md R136, R138; 44_pwm_driver.md R172). -/

namespace Sys2Proof.Machine

/-- Byte `i` of a byte-carrying word, bits `8i+7:8i` (R61, R86). -/
def byteLane (w : Word) (i : Nat) : Byte := w.extractLsb' (8 * i) 8

/-- Byte `i` of the bytes a read returned. A list BUS returns is as long as the transaction asks (R54, log 14), so the 0 past
its end is met only where R86 and R140 say that an unused lane is 0. -/
def byteAt (r : List Byte) (i : Nat) : Byte := r.getD i 0

/-- `res[0]` of `RDREG` (R140): bytes 0 to 3 at their lanes. -/
def lanesLow (r : List Byte) : Word := byteAt r 3 ++ byteAt r 2 ++ byteAt r 1 ++ byteAt r 0

/-- `res[1]` of `RDREG` (R140): bytes 4 to 7 at their lanes. -/
def lanesHigh (r : List Byte) : Word := byteAt r 7 ++ byteAt r 6 ++ byteAt r 5 ++ byteAt r 4

/-- The value bytes of `WRREG` (R137): lanes 0 to n-1, lane 0 sent first. -/
def dataBytes (data : Word) (n : Nat) : List Byte := (List.range n).map (byteLane data)

/-- `acc_decode` (R153): little-endian words, axis order X, Y, Z. -/
def accDecode (r : List Byte) : Sample :=
  ⟨byteAt r 1 ++ byteAt r 0, byteAt r 3 ++ byteAt r 2, byteAt r 5 ++ byteAt r 4⟩

/-- The magnetometer's decoding (R160): big-endian words, axis order X, Z, Y. -/
def magDecode (r : List Byte) : Sample :=
  let x := byteAt r 0 ++ byteAt r 1
  let z := byteAt r 2 ++ byteAt r 3
  let y := byteAt r 4 ++ byteAt r 5
  ⟨x, y, z⟩

/-- The accelerometer's control byte (R151): rate in the top four bits, `ACC_CTRL_LOW` in the low ones. -/
def accCtrlByte (cfg : Config) (rate : BitVec 4) : Byte := rate ++ cfg.accCtrlLow

/-- The magnetometer's rate byte (R159): bit 7 set, rate in bits 4:2, the other bits 0. -/
def magRateByte (rate : BitVec 3) : Byte := 0b100#3 ++ rate ++ 0b00#2

/-- Sub-operation `write_register(dev, reg, v)` (R136): the register byte, then the value bytes. -/
def writeRegister (dev : DevAddr) (reg : Byte) (v : List Byte) : Transaction := .write dev (reg :: v)

/-- The start-register byte (R138, R139, C1): bit 7 requests auto-increment. -/
def startByte (start : Byte) (ai : Bool) : Byte := if ai then start ||| Config.aiFlag else start

/-- Sub-operation `read_registers(dev, start, n, ai)` (R138). -/
def readRegisters (dev : DevAddr) (start : Byte) (n : Nat) (ai : Bool) : Transaction :=
  .writeThenRead dev [startByte start ai] n

/-- Base register of a PWM channel (R59, R172): `0x06 + 4*ch`. -/
def pwmBase (ch : Nat) : Byte := BitVec.ofNat 8 (Config.pwmChBase + 4 * ch)

/-- The four value bytes of a channel (R172): on-low, on-high, off-low, off-high. -/
def pwmBytes (on off : Half) : List Byte := [on.low, on.high, off.low, off.high]

/-- Sub-operation `set_pwm(ch, on, off)` (R172): one write of five bytes to `PWM_ADDR`. -/
def setPwm (cfg : Config) (ch : Nat) (on off : Half) : Transaction :=
  writeRegister cfg.pwmAddr (pwmBase ch) (pwmBytes on off)

/-- A channel of the motors switched fully off: the pair `(0, 0xFFF)` (R187, R190). -/
def channelOff (cfg : Config) (ch : Nat) : Transaction := setPwm cfg ch 0 Config.pwmMax

/-- The active channel of a motor driven at a speed: the pair `(speed, 0xFFF - speed)` (R187). -/
def motorActive (cfg : Config) (m : Motor) (d : Direction) (speed : Half) : Transaction :=
  setPwm cfg (cfg.chMap.chan m d).val speed (Config.pwmMax - speed)

/-- The antagonist channel of a motor switched off: same motor, opposite direction (R186, R187). -/
def antagonistOff (cfg : Config) (m : Motor) (d : Direction) : Transaction :=
  channelOff cfg (cfg.chMap.chan m d.flip).val

/-- Sub-operation `set_motor_speed(m, d, speed)` (R187): the antagonist off first, then the active channel. -/
def setMotorSpeed (cfg : Config) (m : Motor) (d : Direction) (speed : Half) : List Transaction :=
  [antagonistOff cfg m d, motorActive cfg m d speed]

/-- Sub-operation `all_off()` (R190, R223): channels 0 to 7 off, in ascending order. -/
def allOff (cfg : Config) : List Transaction := (List.range 8).map (channelOff cfg)

/-- The motors in the order of `drive_all` (R192). -/
def driveOrder : List Motor := [.frontLeft, .frontRight, .rearLeft, .rearRight]

/-- Sub-operation `drive_all(d, speed)` (R192): `set_motor_speed` of each motor, eight transactions. -/
def driveAll (cfg : Config) (d : Direction) (speed : Half) : List Transaction :=
  driveOrder.flatMap fun m => setMotorSpeed cfg m d speed

/-- `DRIVE_SPEED` (R13) as a 16-bit speed. -/
def driveSpeed (cfg : Config) : Half := cfg.driveSpeed.setWidth 16

/-- The channels a mask selects, in ascending order (R176). -/
def maskChannels (mask : Half) : List Nat := (List.range Config.pwmNch).filter fun ch => mask.getLsbD ch

/-- The value of the indicator event (R226). -/
def indicatorValue (cfg : Config) : Direction → Fin 9
  | .forward => cfg.indFwd
  | .backward => cfg.indBwd

end Sys2Proof.Machine
end

