-- ==== Sys2Proof/Machine/Ops.lean ====
section
/-! DEFINITION. The shared operations: ending a command (`respond`, `raiseStatus`, the failure entry of 60_exceptions.md R243), the
bus port, the steps of the agents other than SEQ, the comparison, the filter and the detector. -/

namespace Sys2Proof.Machine

/-! ## Ending a command -/

/-- `respond(S, r0, r1)` (R16): the response stands on the port, SEQ returns to idle, no sticky bit is set. It is also the only
"return" there is: no handler exists to return from (R251). -/
def respond (st : Status) (r0 r1 : Word) (s : State) : State :=
  { s with resp := ⟨st, r0, r1⟩, respValid := true, pos := .idle }

/-- `raise S(info)` (R16, R243), the entry sequence of every failure: sets the sticky bit of `S`, forms the response `(S, info,
r1)`, returns to IDLE, changes nothing else. `r1` is 0 unless the command's rule sets it. -/
def raiseStatus (st : Status) (info r1 : Word) (s : State) : State :=
  { s with sticky := setSticky st s.sticky, resp := ⟨st, info, r1⟩, respValid := true, pos := .idle }

/-- `raise RANGE(0)` (R246). -/
def raiseRange (s : State) : State := raiseStatus .range 0 0 s

/-- SEQ goes on to position `k` of the command (R40). -/
def goto (k : Nat) (s : State) : State := { s with pos := .busy k }

/-- The position number, 0 while idle. -/
def Pos.index : Pos → Nat
  | .idle => 0
  | .busy k => k

/-! ## The bus port -/

/-- One transaction of SEQ (R53, R54): on a free port it issues the transaction; while the transaction is unanswered it holds
(the state is unchanged); it takes the answer, which frees the port, and goes on with `k`. -/
def transact (tx : Transaction) (k : BusAnswer → State → State) (s : State) : State :=
  match s.bus with
  | .free => { s with bus := .outstanding tx }
  | .outstanding _ => s
  | .answered _ ans => k ans { s with bus := .free }

/-- A sub-operation of several transactions (R17, R67), the `i`-th at position `base + i`: each is issued after the one before was
answered `Ok`; after the last it goes on with `done`; at the first `Err(e)` it stops with `fail e i`, where `i` is how many were
answered `Ok` before. With no transaction at all it is `done` at once (R176, empty mask). -/
def writeSequence (base : Nat) (txs : List Transaction) (done : State → State) (fail : Word → Nat → State → State)
    (s : State) : State :=
  let i := s.pos.index - base
  match txs[i]? with
  | none => done s
  | some tx =>
    transact tx
      (fun ans s' =>
        match ans with
        | .ok _ => if i + 1 < txs.length then goto (base + i + 1) s' else done s'
        | .err e => fail e i s')
      s

/-- `try X` for one transaction (R16): `Err(e)` ends the command with `BUS_ERROR(e)`; `Ok` goes on with the bytes read. -/
def tryTransaction (tx : Transaction) (k : List Byte → State → State) (s : State) : State :=
  transact tx
    (fun ans s' =>
      match ans with
      | .ok r => k r s'
      | .err e => raiseStatus .busError e 0 s')
    s

/-- `raise BUS_ERROR(e)` with `res[1] = 0` (R91). -/
def busErrorPlain (e : Word) (_ : Nat) (s : State) : State := raiseStatus .busError e 0 s

/-- `raise BUS_ERROR(e)` with `res[1]` the number of completed transactions (R91, R176, R190, R192). -/
def busErrorCounted (e : Word) (k : Nat) (s : State) : State := raiseStatus .busError e (BitVec.ofNat 32 k) s

/-- Whether an answer is one BUS can give to a transaction (R53, R54): a write returns no byte, a read exactly `n`. -/
def BusAnswer.fits (tx : Transaction) : BusAnswer → Bool
  | .err _ => true
  | .ok r =>
    match tx with
    | .write _ _ => r.isEmpty
    | .writeThenRead _ _ n => r.length == n

/-- The step of BUS (R53 to R55): it answers the outstanding transaction, and the transaction enters the history (R43). An
answer that does not fit is a fault, and where no transaction waits for an answer there is no effect (log 14). -/
def busStep (ans : BusAnswer) (s : State) : Outcome :=
  match s.bus with
  | .outstanding tx =>
    if ans.fits tx then
      .next { s with bus := .answered tx ans, history := .transaction (opField s.cmd) tx (some ans) :: s.history }
    else
      .fault .malformedAnswer
  | .free => .next s
  | .answered _ _ => .next s

/-- The answer to a transaction that reset abandoned: "its answer, if one ever comes, is discarded" (R271), whatever SEQ is doing
by then, also where a new command's transaction is outstanding. -/
def lateAnswer (_ : BusAnswer) (s : State) : State := s

/-! ## The clock agents -/

/-- The timer event (R110): `if tmr_en = 1 then tick_pend <- 1`. -/
def timerEvent (s : State) : State := { s with tickPend := s.tickPend || s.tmrEn }

/-- The tick handler (R111), enabled iff `tick_pend = 1`: clears it and adds 1 to `tick`, wrapping, in one atomic step. -/
def tickHandler (s : State) : State :=
  if s.tickPend then { s with tickPend := false, tick := s.tick + 1 } else s

/-- `now()` (R113): one atomic read of `tick`. -/
def now (s : State) : Word := s.tick

/-- `ready(target, t) = ((t -w target) < 2^31)` (R120, C2). -/
def ready (target t : Word) : Bool := decide ((t - target).toNat < 2 ^ 31)

/-! ## The host and reset -/

/-- The request of HOST is latched whole and SEQ stands at position 0 (R32, R40); the earlier response leaves the port. -/
def latch (r : Request) (s : State) : State :=
  { s with cmd := r.cmd, arg0 := r.arg0, arg1 := r.arg1, pos := .busy 0, respValid := false }

/-- The request latched in `cmd`, `arg0`, `arg1`. -/
def latched (s : State) : Request := ⟨s.cmd, s.arg0, s.arg1⟩

/-- HOST presents a command: accepted only at `pos = IDLE` (R40, R261; log 13). -/
def acceptRequest (r : Request) (s : State) : State :=
  match s.pos with
  | .idle => latch r s
  | .busy _ => s

/-- What reset adds to the history: a transaction that was outstanding stays unanswered (R271; log 8). -/
def abandoned (s : State) : List Event :=
  match s.bus with
  | .outstanding tx => [.transaction (opField s.cmd) tx none]
  | .free => []
  | .answered _ _ => []

/-- The reset input (R270, R271): every item of R20 at its reset value, a command in progress abandoned without a response, no
transaction and no indicator event. The parameters, the number of slots, the rest of the schedule and the history stay: they
are not state of the hardware (log 16). -/
def applyReset (s : State) : State :=
  { State.reset with
    cfg := s.cfg
    dly := List.replicate s.dly.length DelaySlot.unarmed
    ivl := List.replicate s.ivl.length IntervalSlot.unarmed
    inputs := s.inputs
    history := abandoned s ++ s.history }

/-- Puts a request where SEQ takes its next command from and gives SEQ the next move (log 17). -/
def placeRequest (r : Request) (s : State) : State :=
  let t := latch r s
  { t with bus := .free, inputs := .seq :: t.inputs }

/-! ## The filter and the detector -/

/-- `push(s)` (46_sample_filter.md R202): the oldest sample leaves, the others move one place, the new one is `win[4]`. -/
def Window.push (w : Window) (smp : Sample) : Window := ⟨w.w1, w.w2, w.w3, w.w4, smp⟩

/-- `win[i]` (R206), none past the fifth. -/
def Window.get? (w : Window) (i : Nat) : Option Sample := w.toList[i]?

/-- The samples the mean sums, `win[MEAN_LO .. MEAN_HI-1]` (R204). -/
def summedSamples (cfg : Config) (w : Window) : List Sample := (w.toList.take cfg.meanHi).drop cfg.meanLo

/-- One axis of the mean (R204): the exact sum, divided by 5, truncated toward zero. -/
def meanAxis (vals : List Half) : Half := BitVec.ofInt 16 (Int.tdiv (vals.map BitVec.toInt).sum Config.meanDen)

/-- `mean()` (R204), axis by axis. -/
def mean (cfg : Config) (w : Window) : Sample :=
  let l := summedSamples cfg w
  ⟨meanAxis (l.map Sample.x), meanAxis (l.map Sample.y), meanAxis (l.map Sample.z)⟩

/-- `detect` on one axis (47_collision_fsm.md R217): the exact signed difference live minus mean exceeds 10000. -/
def axisExceeds (live base : Half) : Bool := decide (live.toInt - base.toInt > Config.thresh)

/-- `detect(live, base)` (R217): any axis. -/
def detect (live base : Sample) : Bool :=
  axisExceeds live.x base.x || axisExceeds live.y base.y || axisExceeds live.z base.z

/-- `detect` of a sample against the current baseline (R218). -/
def collides (s : State) (live : Sample) : Bool := detect live (mean s.cfg s.win)

/-- `zext_32` of a bit (R218, R220). -/
def boolWord (b : Bool) : Word := (BitVec.ofBool b).setWidth 32

/-- Ends a command with a sample packed in the two result words (R83). -/
def respondSample (smp : Sample) (s : State) : State := respond .ok (packLow smp) (packHigh smp) s

end Sys2Proof.Machine
end

