-- ==== Sys2Proof/Machine/Clock.lean ====
section
/-! DEFINITION. Unit TICK: `CLKINIT`, `TIME`, `STAT` (40_clock_tick.md). -/

namespace Sys2Proof.Machine

/-- R112: `tmr_en <- 1`; `tick` and `tick_pend` stay. -/
def execClkinit (s : State) : Outcome := .next (respond .ok 0 0 { s with tmrEn := true })

/-- R113: one atomic read of `tick`. -/
def execTime (s : State) : Outcome := .next (respond .ok (now s) 0 s)

/-- R115: the control and sticky bits; reading clears nothing. -/
def execStat (s : State) : Outcome :=
  .next (respond .ok (statWord s.sticky s.ccDir s.tickPend s.tmrEn) 0 s)

end Sys2Proof.Machine
end

