-- ==== Sys2Proof/Machine/Codec.lean ====
section
/-! DEFINITION. Unit RBC: `WRREG`, `RDREG` (42_register_bus_codec.md). -/

namespace Sys2Proof.Machine

/-- R137: one write of the register byte and `n` value bytes, `n` in 1..4. -/
def execWrreg (dev : DevAddr) (reg : Byte) (n : Nat) (data : Word) (s : State) : Outcome :=
  if n < 1 ∨ n > 4 then .next (raiseRange s)
  else .next (tryTransaction (writeRegister dev reg (dataBytes data n)) (fun _ => respond .ok 0 0) s)

/-- R140: one read of `n` bytes, `n` in 1..8, placed at their lanes. -/
def execRdreg (dev : DevAddr) (reg : Byte) (ai : Bool) (n : Nat) (s : State) : Outcome :=
  if n < 1 ∨ n > 8 then .next (raiseRange s)
  else
    .next (tryTransaction (readRegisters dev reg n ai) (fun r => respond .ok (lanesLow r) (lanesHigh r)) s)

end Sys2Proof.Machine
end

