-- ==== Sys2Proof/Machine/Sensors.lean ====
section
/-! DEFINITION. Group SNS: `ACCINIT`, `ACCRD`, `ACCTEMP`, `MAGINIT`, `MAGRD`, `MAGTEMP` (43_sensor_drivers.md). -/

namespace Sys2Proof.Machine

/-- The accelerometer's sample read, R152: six bytes in one auto-incrementing burst from register 0x28. -/
def accRead (cfg : Config) : Transaction := readRegisters cfg.accAddr Config.accOutReg 6 true

/-- The magnetometer's sample read, R160: six bytes from register 0x03, no flag in the start byte. -/
def magRead (cfg : Config) : Transaction := readRegisters cfg.magAddr Config.magOutReg 6 false

/-- R151: one write of the control byte to register 0x20. -/
def execAccinit (rate : BitVec 4) (s : State) : Outcome :=
  .next (tryTransaction (writeRegister s.cfg.accAddr Config.accCtrlReg [accCtrlByte s.cfg rate])
    (fun _ => respond .ok 0 0) s)

/-- R152: reads and decodes one accelerometer sample; no state is written. -/
def execAccrd (s : State) : Outcome :=
  .next (tryTransaction (accRead s.cfg) (fun r => respondSample (accDecode r)) s)

/-- R155: declared and not implemented: raises UNSUPPORTED, no transaction, no value. -/
def execAcctemp (s : State) : Outcome := .next (raiseStatus .unsupported 0 0 s)

/-- The two writes of `MAGINIT`, R158: the mode register first, then the rate register. -/
def magInitWrites (cfg : Config) (rate : BitVec 3) : List Transaction :=
  [writeRegister cfg.magAddr Config.magModeReg [Config.magModeCont],
   writeRegister cfg.magAddr Config.magRateReg [magRateByte rate]]

/-- R158: mode write, then rate write; the second is not issued if the first fails. -/
def execMaginit (rate : BitVec 3) (s : State) : Outcome :=
  .next (writeSequence 0 (magInitWrites s.cfg rate) (respond .ok 0 0) busErrorPlain s)

/-- R160: reads and decodes one magnetometer sample; no state is written. -/
def execMagrd (s : State) : Outcome :=
  .next (tryTransaction (magRead s.cfg) (fun r => respondSample (magDecode r)) s)

/-- R162: as `ACCTEMP`. -/
def execMagtemp (s : State) : Outcome := .next (raiseStatus .unsupported 0 0 s)

end Sys2Proof.Machine
end

