-- ==== Sys2Proof/Machine/Collision.lean ====
section
/-! DEFINITION. Unit CCF: `CCEVAL`, `CCSTEP`, `CCCYCLE` (47_collision_fsm.md). The positions are those of R220. -/

namespace Sys2Proof.Machine

/-- R218: detection alone, no state but the response. -/
def execCceval (live : Sample) (s : State) : Outcome := .next (respond .ok (boolWord (collides s live)) 0 s)

/-- Position 1 (R220, steps 2 and 3): on a collision go on to the toggle, otherwise to the push. -/
def ccDetect (s : State) : State := if collides s s.ccLive then goto 2 s else goto 22 s

/-- Position 2 (R222): the toggle. -/
def ccToggle (s : State) : State := goto 3 { s with ccDir := s.ccDir.flip }

/-- Positions 3 to 10 (R223, R227): `all_off`. -/
def ccStop (s : State) : State := writeSequence 3 (allOff s.cfg) (goto 11) busErrorPlain s

/-- Position 11 (R224): the settle target, captured once. -/
def ccArmSettle (s : State) : State := goto 12 { s with ccSettle := now s + Config.settleTicks }

/-- Position 12 (R224): the settle wait; it holds until the target is reached. -/
def ccSettleWait (s : State) : State := if ready s.ccSettle (now s) then goto 13 s else s

/-- Positions 13 to 20 (R225, R227): `drive_all` in the toggled direction. -/
def ccDrive (s : State) : State :=
  writeSequence 13 (driveAll s.cfg s.ccDir (driveSpeed s.cfg)) (goto 21) busErrorPlain s

/-- Position 21 (R226): one indicator event. -/
def ccIndicate (s : State) : State :=
  goto 22 { s with history := .indicator (indicatorValue s.cfg s.ccDir) :: s.history }

/-- Position 22 (R220, step 5, and the response). `hit` is what position 1 computed: no step in between writes the window or
`cc_live` (log 12). -/
def ccFinish (s : State) : State :=
  respond .ok (boolWord (collides s s.ccLive)) (boolWord s.ccDir.bit) { s with win := s.win.push s.ccLive }

/-- Positions 1 to 22 of R220, shared by `CCSTEP` and `CCCYCLE` (R231). -/
def cycleFrom (s : State) : State :=
  let k := s.pos.index
  if k ≤ 1 then ccDetect s
  else if k = 2 then ccToggle s
  else if k ≤ 10 then ccStop s
  else if k = 11 then ccArmSettle s
  else if k = 12 then ccSettleWait s
  else if k ≤ 20 then ccDrive s
  else if k = 21 then ccIndicate s
  else ccFinish s

/-- R220: position 0 takes the given sample, then positions 1 to 22. -/
def execCcstep (live : Sample) (s : State) : Outcome :=
  if s.pos.index = 0 then .next (goto 1 { s with ccLive := live }) else .next (cycleFrom s)

/-- R231: position 0 reads a sample, exactly `ACCRD`'s transaction, then positions 1 to 22 of R220. -/
def execCccycle (s : State) : Outcome :=
  if s.pos.index = 0 then
    .next (tryTransaction (accRead s.cfg) (fun r s' => goto 1 { s' with ccLive := accDecode r }) s)
  else .next (cycleFrom s)

end Sys2Proof.Machine
end

