-- ==== Sys2Proof/Machine/Delay.lean ====
section
/-! DEFINITION. Unit DLY: `DNEW`, `DPOLL`, `INEW`, `IPOLL` (41_delay_interval.md). A slot index past the last slot raises RANGE. -/

namespace Sys2Proof.Machine

/-- R121: arms delay `slot` with target `now() +w duration` and clears `done`. -/
def execDnew (slot : Nat) (duration : Word) (s : State) : Outcome :=
  if slot ≥ s.nDelay then .next (raiseRange s)
  else
    let target := now s + duration
    .next (respond .ok target 0 { s with dly := s.dly.set slot ⟨true, false, target⟩ })

/-- R122, R123: polls delay `slot`; once it has been found ready it answers ready without reading the clock. -/
def execDpoll (slot : Nat) (s : State) : Outcome :=
  match s.dly[slot]? with
  | none => .next (raiseRange s)
  | some d =>
    if d.armed = false then .next (raiseStatus .unarmed 0 0 s)
    else if d.done then .next (respond .ok 0 0 s)
    else if ready d.target (now s) then
      .next (respond .ok 0 0 { s with dly := s.dly.set slot { d with done := true } })
    else .next (respond .wouldBlock 0 0 s)

/-- R125: arms interval `slot`; the first boundary is one period from now. -/
def execInew (slot : Nat) (period : Word) (s : State) : Outcome :=
  if slot ≥ s.nInterval then .next (raiseRange s)
  else
    let target := now s + period
    .next (respond .ok target 0 { s with ivl := s.ivl.set slot ⟨true, target, period⟩ })

/-- R126, C3: polls interval `slot`; firing moves the target on by one period from the boundary that fired. -/
def execIpoll (slot : Nat) (s : State) : Outcome :=
  match s.ivl[slot]? with
  | none => .next (raiseRange s)
  | some v =>
    if v.armed = false then .next (raiseStatus .unarmed 0 0 s)
    else if ready v.target (now s) then
      .next (respond .ok 1 0 { s with ivl := s.ivl.set slot { v with target := v.target + v.period } })
    else .next (respond .ok 0 0 s)

end Sys2Proof.Machine
end

