-- ==== Sys2Proof/Machine/Filter.lean ====
section
/-! DEFINITION. Unit FLT: `FPUSH`, `FMEAN`, `FGET` (46_sample_filter.md). -/

namespace Sys2Proof.Machine

/-- R201: pushes one sample. -/
def execFpush (smp : Sample) (s : State) : Outcome := .next (respond .ok 0 0 { s with win := s.win.push smp })

/-- R203: the mean sample; the window stays. -/
def execFmean (s : State) : Outcome := .next (respondSample (mean s.cfg s.win) s)

/-- R206: one window element, `idx` in 0..4. -/
def execFget (idx : Nat) (s : State) : Outcome :=
  match s.win.get? idx with
  | none => .next (raiseRange s)
  | some smp => .next (respondSample smp s)

end Sys2Proof.Machine
end

