-- ==== Sys2Proof/Machine/Motors.lean ====
section
/-! DEFINITION. Unit PWM, motor part: `MOTSPD`, `MOTOFF`, `MOTALL` (45_motor.md). -/

namespace Sys2Proof.Machine

/-- R188: `set_motor_speed`, after the range check of the speed. -/
def execMotspd (m : Motor) (d : Direction) (speed : Half) (s : State) : Outcome :=
  if speed > Config.pwmMax then .next (raiseRange s)
  else .next (writeSequence 0 (setMotorSpeed s.cfg m d speed) (respond .ok 0 0) busErrorPlain s)

/-- R190: `all_off`; on success `res[1] = 8`. -/
def execMotoff (s : State) : Outcome :=
  .next (writeSequence 0 (allOff s.cfg) (respond .ok 0 8) busErrorCounted s)

/-- R192: `drive_all`, after the range check of the speed; on success `res[1] = 8`. -/
def execMotall (d : Direction) (speed : Half) (s : State) : Outcome :=
  if speed > Config.pwmMax then .next (raiseRange s)
  else .next (writeSequence 0 (driveAll s.cfg d speed) (respond .ok 0 8) busErrorCounted s)

end Sys2Proof.Machine
end

