-- ==== Sys2Proof/Machine/Pwm.lean ====
section
/-! DEFINITION. Unit PWM, chip part: `PWMINIT`, `PWMSET`, `PWMSETM` (44_pwm_driver.md). -/

namespace Sys2Proof.Machine

/-- R171: writes 0x21 to the mode register 0x00. -/
def execPwminit (s : State) : Outcome :=
  .next (tryTransaction (writeRegister s.cfg.pwmAddr Config.pwmModeReg [Config.pwmModeAi])
    (fun _ => respond .ok 0 0) s)

/-- R173, R174: programs one channel; an operand out of range raises RANGE and is never truncated. -/
def execPwmset (ch : Nat) (on off : Half) (s : State) : Outcome :=
  if ch > 15 ∨ on > Config.pwmMax ∨ off > Config.pwmMax then .next (raiseRange s)
  else .next (tryTransaction (setPwm s.cfg ch on off) (fun _ => respond .ok 0 0) s)

/-- The writes of `PWMSETM`, R176: one for each selected channel, in ascending order. -/
def pwmsetmWrites (cfg : Config) (mask on off : Half) : List Transaction :=
  (maskChannels mask).map fun ch => setPwm cfg ch on off

/-- R176: programs the same pair on every selected channel and returns how many were written. -/
def execPwmsetm (mask on off : Half) (s : State) : Outcome :=
  if on > Config.pwmMax ∨ off > Config.pwmMax then .next (raiseRange s)
  else
    let txs := pwmsetmWrites s.cfg mask on off
    .next (writeSequence 0 txs (respond .ok 0 (BitVec.ofNat 32 txs.length)) busErrorCounted s)

end Sys2Proof.Machine
end

