-- ==== Sys2Proof/Machine/Dispatch.lean ====
section
/-! DEFINITION. One arm per command: SEQ's step of that command at the position in `pos` (10_state.md R40). -/

namespace Sys2Proof.Machine

def exec (i : Instr) (s : State) : Host.Outcome State Fault Refusal :=
  match i with
  -- unit TICK
  | .clkinit => Sys2Proof.Machine.execClkinit s
  | .time => Sys2Proof.Machine.execTime s
  | .stat => Sys2Proof.Machine.execStat s
  -- unit DLY
  | .dnew slot duration => Sys2Proof.Machine.execDnew slot duration s
  | .dpoll slot => Sys2Proof.Machine.execDpoll slot s
  | .inew slot period => Sys2Proof.Machine.execInew slot period s
  | .ipoll slot => Sys2Proof.Machine.execIpoll slot s
  -- unit RBC
  | .wrreg dev reg n data => Sys2Proof.Machine.execWrreg dev reg n data s
  | .rdreg dev reg ai n => Sys2Proof.Machine.execRdreg dev reg ai n s
  -- group SNS
  | .accinit rate => Sys2Proof.Machine.execAccinit rate s
  | .accrd => Sys2Proof.Machine.execAccrd s
  | .acctemp => Sys2Proof.Machine.execAcctemp s
  | .maginit rate => Sys2Proof.Machine.execMaginit rate s
  | .magrd => Sys2Proof.Machine.execMagrd s
  | .magtemp => Sys2Proof.Machine.execMagtemp s
  -- unit PWM, chip part
  | .pwminit => Sys2Proof.Machine.execPwminit s
  | .pwmset ch on off => Sys2Proof.Machine.execPwmset ch on off s
  | .pwmsetm mask on off => Sys2Proof.Machine.execPwmsetm mask on off s
  -- unit PWM, motor part
  | .motspd motor dir speed => Sys2Proof.Machine.execMotspd motor dir speed s
  | .motoff => Sys2Proof.Machine.execMotoff s
  | .motall dir speed => Sys2Proof.Machine.execMotall dir speed s
  -- unit FLT
  | .fpush sample => Sys2Proof.Machine.execFpush sample s
  | .fmean => Sys2Proof.Machine.execFmean s
  | .fget idx => Sys2Proof.Machine.execFget idx s
  -- unit CCF
  | .cceval sample => Sys2Proof.Machine.execCceval sample s
  | .cccycle => Sys2Proof.Machine.execCccycle s
  | .ccstep sample => Sys2Proof.Machine.execCcstep sample s

end Sys2Proof.Machine
end

