-- ==== Sys2Proof/Machine/Sequencer.lean ====
section
/-! DEFINITION. The step of SEQ and the steps of the other agents, each named by the schedule's next entry (00_scope.md R10). -/

namespace Sys2Proof.Machine

/-- One step of SEQ (10_state.md R40): idle, it does nothing; with a command in progress it runs the command's next position; a
command word that selects no row raises ILLEGAL (30_encoding.md R89, R242). -/
def seqStep (s : State) : Outcome :=
  match s.pos with
  | .idle => .next s
  | .busy _ =>
    match decode (latched s) with
    | .ok i => exec i s
    | .error _ => .next (raiseStatus .illegal 0 0 s)

/-- The step an entry of the schedule names. -/
def agentStep (i : Input) (s : State) : Outcome :=
  match i with
  | .timer => .next (timerEvent s)
  | .handler => .next (tickHandler s)
  | .reset => .next (applyReset s)
  | .request r => .next (acceptRequest r s)
  | .bus ans => busStep ans s
  | .lateBus ans => .next (lateAnswer ans s)
  | .seq => seqStep s

/-- The next entry of the schedule moves; where the schedule is empty, SEQ does (log 6). -/
def scheduledStep (s : State) : Outcome :=
  match s.inputs with
  | [] => seqStep s
  | i :: rest => agentStep i { s with inputs := rest }

end Sys2Proof.Machine
end

