-- ==== Sys2Proof/Machine/Step.lean ====
section
/-! DEFINITION. One step of the machine: one atomic step of one agent (00_scope.md R10), and where a command comes from. -/

namespace Sys2Proof.Machine

/-- One step: a next state, a fault or a refusal. -/
def step (s : State) : Host.Outcome State Fault Refusal := scheduledStep s

/-- `s` with the command whose bits are `w` (numbered as the opcode table numbers them) latched as the command in progress at
position 0, the bus port free, and SEQ to move next (log 17). -/
def State.withFetchWord (s : State) (nbits w : Nat) : State := placeRequest (requestOfBits nbits w) s

end Sys2Proof.Machine
end

