-- ==== Sys2Proof/Machine/HostSide.lean ====
section
/-! DEFINITION. What stands on the host's side of the command port and is never seen by MTTC: the pseudo-commands
(30_encoding.md R93), the textual syntax (R92) and the boot sequence (70_reset_and_hazards.md R273). No step uses them. -/

namespace Sys2Proof.Machine

/-- The pseudo-commands of R93. -/
inductive PseudoCommand where
  /-- `PWMALL on, off`. -/
  | pwmAll (on off : Half)
  /-- `WAIT slot`. -/
  | wait (slot : Nat)
  /-- `LOOP`. -/
  | loop
  deriving DecidableEq, Repr

/-- The data word of `PWMALL` (R93): on-low, on-high, off-low, off-high from the low byte up. -/
def pwmAllData (on off : Half) : Word := off ++ on

/-- The command a pseudo-command presents (R93). -/
def PseudoCommand.command (cfg : Config) : PseudoCommand → Instr
  | .pwmAll on off => .wrreg cfg.pwmAddr Config.pwmAllBase 4 (pwmAllData on off)
  | .wait slot => .dpoll slot
  | .loop => .cccycle

/-- "the transcriber must check `on, off <= 0xFFF` itself" (R93): `WRREG` does not. -/
def PseudoCommand.legal : PseudoCommand → Bool
  | .pwmAll on off => decide (on ≤ Config.pwmMax) && decide (off ≤ Config.pwmMax)
  | .wait _ => true
  | .loop => true

/-- Whether the host presents the command again after a response of this status (R93): `WAIT` until the status is `OK`, `LOOP` until
it is another. -/
def PseudoCommand.again : PseudoCommand → Status → Bool
  | .pwmAll _ _, _ => false
  | .wait _, st => st != .ok
  | .loop, st => st == .ok

/-- The boot sequence of R273: steps 1 to 4, the optional steps 5 and 6, step 7, and the first cycle of step 8. R273 does not say
that the five rest samples of step 6 are equal: `rest` holds any five, the first to be pushed as its oldest (log 21). -/
def bootSequence (cfg : Config) (rate : BitVec 4) (magRate : Option (BitVec 3)) (rest : Option Window) : List Instr :=
  [.clkinit, .pwminit, .motoff, .accinit rate]
    ++ magRate.toList.map Instr.maginit
    ++ (rest.toList.flatMap fun five => five.toList.map Instr.fpush)
    ++ [.motall .forward (driveSpeed cfg), .cccycle]

/-- The operand names of R92. -/
def motorText : Motor → String
  | .frontLeft => "FL"
  | .frontRight => "FR"
  | .rearLeft => "RL"
  | .rearRight => "RR"

/-- The operand names of R92. -/
def directionText : Direction → String
  | .forward => "FWD"
  | .backward => "BWD"

/-- `(x, y, z)` (R92). -/
def sampleText (s : Sample) : String :=
  "(" ++ toString s.x.toInt ++ ", " ++ toString s.y.toInt ++ ", " ++ toString s.z.toInt ++ ")"

/-- Operands separated by commas (R92). -/
def operandList (l : List Nat) : String := String.intercalate ", " (l.map toString)

/-- One command in the textual syntax of R92, numbers in decimal. -/
def instrText (i : Instr) : String :=
  match i with
  | .clkinit => i.mnemonic
  | .time => i.mnemonic
  | .stat => i.mnemonic
  | .dnew slot duration => i.mnemonic ++ " " ++ operandList [slot, duration.toNat]
  | .dpoll slot => i.mnemonic ++ " " ++ operandList [slot]
  | .inew slot period => i.mnemonic ++ " " ++ operandList [slot, period.toNat]
  | .ipoll slot => i.mnemonic ++ " " ++ operandList [slot]
  | .wrreg dev reg n data => i.mnemonic ++ " " ++ operandList [dev.toNat, reg.toNat, n, data.toNat]
  | .rdreg dev reg ai n => i.mnemonic ++ (if ai then ".AI " else " ") ++ operandList [dev.toNat, reg.toNat, n]
  | .accinit rate => i.mnemonic ++ " " ++ operandList [rate.toNat]
  | .accrd => i.mnemonic
  | .acctemp => i.mnemonic
  | .maginit rate => i.mnemonic ++ " " ++ operandList [rate.toNat]
  | .magrd => i.mnemonic
  | .magtemp => i.mnemonic
  | .pwminit => i.mnemonic
  | .pwmset ch on off => i.mnemonic ++ " " ++ operandList [ch, on.toNat, off.toNat]
  | .pwmsetm mask on off => i.mnemonic ++ " " ++ operandList [mask.toNat, on.toNat, off.toNat]
  | .motspd m d speed => i.mnemonic ++ " " ++ motorText m ++ ", " ++ directionText d ++ ", " ++ operandList [speed.toNat]
  | .motoff => i.mnemonic
  | .motall d speed => i.mnemonic ++ " " ++ directionText d ++ ", " ++ operandList [speed.toNat]
  | .fpush s => i.mnemonic ++ " " ++ sampleText s
  | .fmean => i.mnemonic
  | .fget idx => i.mnemonic ++ " " ++ operandList [idx]
  | .cceval s => i.mnemonic ++ " " ++ sampleText s
  | .cccycle => i.mnemonic
  | .ccstep s => i.mnemonic ++ " " ++ sampleText s

end Sys2Proof.Machine
end

