-- ==== Sys2Proof/Safety.lean ====
section
/-! DEFINITION. The terms claims use: the positions and the transactions of a command, the invariant of the state, and the motor
safety of the history (45_motor.md R189). -/

namespace Sys2Proof.Machine

/-- How many positions a command has: 23 for the control cycle (47_collision_fsm.md R220), one per transaction for the other
commands, at least one (log 9). -/
def positions : Instr → Nat
  | .maginit _ => 2
  | .pwmsetm mask _ _ => max 1 (maskChannels mask).length
  | .motspd _ _ _ => 2
  | .motoff => 8
  | .motall _ _ => 8
  | .cccycle => 23
  | .ccstep _ => 23
  | .clkinit => 1
  | .time => 1
  | .stat => 1
  | .dnew _ _ => 1
  | .dpoll _ => 1
  | .inew _ _ => 1
  | .ipoll _ => 1
  | .wrreg _ _ _ _ => 1
  | .rdreg _ _ _ _ => 1
  | .accinit _ => 1
  | .accrd => 1
  | .acctemp => 1
  | .magrd => 1
  | .magtemp => 1
  | .pwminit => 1
  | .pwmset _ _ _ => 1
  | .fpush _ => 1
  | .fmean => 1
  | .fget _ => 1
  | .cceval _ => 1

/-- The transaction of position `k` of the reaction of a control cycle (R220): `all_off` at 3 to 10, `drive_all` at 13 to 20. -/
def reactionTx (cfg : Config) (dir : Direction) (k : Nat) : Option Transaction :=
  if k < 3 then none
  else if k ≤ 10 then (allOff cfg)[k - 3]?
  else if k < 13 then none
  else if k ≤ 20 then (driveAll cfg dir (driveSpeed cfg))[k - 13]?
  else none

/-- The transaction a command issues at position `k`, given `cc_dir` at that position; none where it issues none, also where an
operand is out of range (R242: all checks are made before any transaction). -/
def commandTx (cfg : Config) (dir : Direction) (k : Nat) : Instr → Option Transaction
  | .wrreg dev reg n data => if 1 ≤ n ∧ n ≤ 4 then [writeRegister dev reg (dataBytes data n)][k]? else none
  | .rdreg dev reg ai n => if 1 ≤ n ∧ n ≤ 8 then [readRegisters dev reg n ai][k]? else none
  | .accinit rate => [writeRegister cfg.accAddr Config.accCtrlReg [accCtrlByte cfg rate]][k]?
  | .accrd => [accRead cfg][k]?
  | .maginit rate => (magInitWrites cfg rate)[k]?
  | .magrd => [magRead cfg][k]?
  | .pwminit => [writeRegister cfg.pwmAddr Config.pwmModeReg [Config.pwmModeAi]][k]?
  | .pwmset ch on off =>
    if ch ≤ 15 ∧ on ≤ Config.pwmMax ∧ off ≤ Config.pwmMax then [setPwm cfg ch on off][k]? else none
  | .pwmsetm mask on off =>
    if on ≤ Config.pwmMax ∧ off ≤ Config.pwmMax then (pwmsetmWrites cfg mask on off)[k]? else none
  | .motspd m d speed => if speed ≤ Config.pwmMax then (setMotorSpeed cfg m d speed)[k]? else none
  | .motoff => (allOff cfg)[k]?
  | .motall d speed => if speed ≤ Config.pwmMax then (driveAll cfg d speed)[k]? else none
  | .cccycle => if k = 0 then some (accRead cfg) else reactionTx cfg dir k
  | .ccstep _ => reactionTx cfg dir k
  | .clkinit => none
  | .time => none
  | .stat => none
  | .dnew _ _ => none
  | .dpoll _ => none
  | .inew _ _ => none
  | .ipoll _ => none
  | .acctemp => none
  | .magtemp => none
  | .fpush _ => none
  | .fmean => none
  | .fget _ => none
  | .cceval _ => none

/-- The command in progress and its position. -/
def inProgress (s : State) : Option (Instr × Nat) :=
  match s.pos with
  | .idle => none
  | .busy k =>
    match decode (latched s) with
    | .ok i => some (i, k)
    | .error _ => none

/-- The transaction of the position at which SEQ stands. -/
def pendingTx (s : State) : Option Transaction :=
  match inProgress s with
  | some (i, k) => commandTx s.cfg s.ccDir k i
  | none => none

/-- The control cycle's commands. -/
def isCycle : Instr → Bool
  | .cccycle => true
  | .ccstep _ => true
  | .clkinit => false
  | .time => false
  | .stat => false
  | .dnew _ _ => false
  | .dpoll _ => false
  | .inew _ _ => false
  | .ipoll _ => false
  | .wrreg _ _ _ _ => false
  | .rdreg _ _ _ _ => false
  | .accinit _ => false
  | .accrd => false
  | .acctemp => false
  | .maginit _ => false
  | .magrd => false
  | .magtemp => false
  | .pwminit => false
  | .pwmset _ _ _ => false
  | .pwmsetm _ _ _ => false
  | .motspd _ _ _ => false
  | .motoff => false
  | .motall _ _ => false
  | .fpush _ => false
  | .fmean => false
  | .fget _ => false
  | .cceval _ => false

/-- A legal position (R40): idle, or a position of the command in progress, or position 0 of a word that selects no row. -/
def posLegal (s : State) : Prop :=
  match s.pos with
  | .idle => True
  | .busy k =>
    s.respValid = false ∧
      match decode (latched s) with
      | .ok i => k < positions i
      | .error _ => k = 0

/-- A legal bus port (R53, R54, R57): a transaction on the port is the one of SEQ's position, and an answer is one BUS can give
and stands at the head of the history. -/
def busLegal (s : State) : Prop :=
  match s.bus with
  | .free => True
  | .outstanding tx => pendingTx s = some tx
  | .answered tx ans =>
    pendingTx s = some tx ∧ ans.fits tx = true ∧
      s.history.head? = some (.transaction (opField s.cmd) tx (some ans))

/-- At the positions of the reaction of a control cycle, `detect` still answers a collision for `cc_live` and the window (log 12). -/
def hitLegal (s : State) : Prop :=
  ∀ i k, inProgress s = some (i, k) → isCycle i = true → 2 ≤ k → k ≤ 21 → collides s s.ccLive = true

/-- The invariant of the machine's state. -/
structure State.Inv (s : State) : Prop where
  /-- The parameters meet their constraints (R13, R186). -/
  cfgLegal : s.cfg.wf = true
  /-- `N_DELAY` is in 1..16 (R13). -/
  delays : 1 ≤ s.nDelay ∧ s.nDelay ≤ 16
  /-- `N_INTERVAL` is in 1..16 (R13). -/
  intervals : 1 ≤ s.nInterval ∧ s.nInterval ≤ 16
  /-- A pending tick means an enabled timer (R23, R24). -/
  pendEnabled : s.tickPend = true → s.tmrEn = true
  /-- A delay that has been reported ready is armed (R25). -/
  doneArmed : ∀ d ∈ s.dly, d.done = true → d.armed = true
  /-- R40. -/
  pos : posLegal s
  /-- R53, R54, R57. -/
  bus : busLegal s
  /-- R220. -/
  hit : hitLegal s

/-- The opcodes of the commands R189 speaks of: `MOTSPD`, `MOTOFF`, `MOTALL`, `CCCYCLE`, `CCSTEP`. -/
def motorOps : List Byte := [0x50, 0x51, 0x52, 0x71, 0x73]

/-- The transaction writes a pair other than `(0, 0xFFF)` to the channel of motor `m`, direction `d`. -/
def drivesChannel (cfg : Config) (tx : Transaction) (m : Motor) (d : Direction) : Prop :=
  ∃ on off : Half, tx = setPwm cfg (cfg.chMap.chan m d).val on off ∧ ¬ (on = 0 ∧ off = Config.pwmMax)

/-- The newest event of `older` is a write that switched the antagonist of `(m, d)` off, answered `Ok`, by a motor command. -/
def antagonistJustOff (cfg : Config) (m : Motor) (d : Direction) (older : List Event) : Prop :=
  ∃ op bytes, op ∈ motorOps ∧ older.head? = some (.transaction op (antagonistOff cfg m d) (some (.ok bytes)))

/-- The safety invariant of R189 over the history, newest event first: every write by a motor command of a pair other than
`(0, 0xFFF)` to a motor's channel is immediately preceded by the antagonist's off-write, answered `Ok`. -/
def activeAfterOff (cfg : Config) : List Event → Prop
  | [] => True
  | e :: older =>
    (∀ op tx ans m d, e = .transaction op tx ans → op ∈ motorOps → drivesChannel cfg tx m d →
      antagonistJustOff cfg m d older) ∧ activeAfterOff cfg older

/-- R189 as a property a step keeps: the history has it, and so has the history with the transaction that SEQ's position is about
to make or is waiting for. -/
structure State.MotorSafe (s : State) : Prop where
  /-- R189 for the history. -/
  past : activeAfterOff s.cfg s.history
  /-- R189 for the transaction not yet in the history. -/
  next : (∀ tx ans, s.bus ≠ .answered tx ans) → ∀ tx m d, pendingTx s = some tx → opField s.cmd ∈ motorOps →
    drivesChannel s.cfg tx m d → antagonistJustOff s.cfg m d s.history

/-- Polls interval `slot` `n` times with no other step between (R127). -/
def afterPolls (slot : Nat) : Nat → State → State
  | 0, s => s
  | n + 1, s =>
    match execIpoll slot (afterPolls slot n s) with
    | .next t => t
    | .fault _ => s
    | .refused _ => s

/-- The schedule of a transaction answered `Ok` to a write: SEQ issues it, BUS answers, SEQ takes the answer. -/
def writeAnswered : List Input := [.seq, .bus (.ok []), .seq]

/-- `n` ticks, each a timer event and its handler step (R110, R111, assumption EA1 of R116). -/
def ticks (n : Nat) : List Input := (List.replicate n [Input.timer, Input.handler]).flatten

/-- The schedule of `n` such transactions. -/
def writesAnswered (n : Nat) : List Input := (List.replicate n writeAnswered).flatten

/-- The schedule of the first half of a reaction of `CCSTEP` (R220): the request; positions 0 to 2; eight writes; position 11. -/
def stopSchedule (arg0 arg1 : Word) : List Input :=
  Input.request ⟨0x73000000, arg0, arg1⟩ :: Input.seq :: Input.seq :: Input.seq :: (writesAnswered 8 ++ [Input.seq])

/-- The schedule of a whole reaction (R220): its first half; `n` ticks; position 12; eight writes; positions 21 and 22. -/
def reactionSchedule (arg0 arg1 : Word) (n : Nat) : List Input :=
  stopSchedule arg0 arg1 ++ (ticks n ++ Input.seq :: (writesAnswered 8 ++ [Input.seq, Input.seq]))

/-- The history entries of writes of one command answered `Ok`, newest first. -/
def writesDone (op : Byte) (txs : List Transaction) : List Event :=
  (txs.map fun tx => Event.transaction op tx (some (.ok []))).reverse

end Sys2Proof.Machine
end

