-- ==== Sys2Proof/Certificates/Slice0/Obligations.lean ====
section
/-! DEFINITION. The statements for the provers: what the rules of the spec say MTTC does. A right-hand side is written from the
rule, as a state in which every field that is not named is as before, so a result statement is its own frame.
In each of them `respValid` is the model's own field (log 5). -/

open Sys2Proof Sys2Proof.Machine

/-! ## Encoding -/

/-- Words written out from R82 and R88, one or more of each family, decode to the commands they stand for. -/
def Obligations.SpecWordsDecode : Prop :=
  decode ⟨0x01000000, 7, 9⟩ = .ok .clkinit ∧
  decode ⟨0x10030000, 0x00000032, 0⟩ = .ok (.dnew 3 50) ∧
  decode ⟨0x13FF0000, 0, 0⟩ = .ok (.ipoll 255) ∧
  decode ⟨0x201E0202, 0xAABBCCDD, 0⟩ = .ok (.wrreg 0x1E 0x02 2 0xAABBCCDD) ∧
  decode ⟨0x21192886, 0, 0⟩ = .ok (.rdreg 0x19 0x28 true 6) ∧
  decode ⟨0x3000000F, 0, 0⟩ = .ok (.accinit 15) ∧
  decode ⟨0x34000004, 0, 0⟩ = .ok (.maginit 4) ∧
  decode ⟨0x41030000, 0x0EDC0123, 0⟩ = .ok (.pwmset 3 0x123 0xEDC) ∧
  decode ⟨0x42008001, 0x07FF0800, 0⟩ = .ok (.pwmsetm 0x8001 0x800 0x7FF) ∧
  decode ⟨0x50030800, 0, 0⟩ = .ok (.motspd .frontRight .backward 0x800) ∧
  decode ⟨0x52010C00, 0, 0⟩ = .ok (.motall .backward 0xC00) ∧
  decode ⟨0x60000000, 0xFFFE0001, 0xABCD0003⟩ = .ok (.fpush ⟨1, 0xFFFE, 3⟩) ∧
  decode ⟨0x62040000, 0, 0⟩ = .ok (.fget 4) ∧
  decode ⟨0x73000000, 0x27110000, 0⟩ = .ok (.ccstep ⟨0, 10001, 0⟩) ∧
  decode ⟨0x72000000, 0, 0⟩ = .error (.unknownOpcode 0x72) ∧
  decode ⟨0x3400000F, 0, 0⟩ = .error (.reservedBits 0x34)

/-- Decoding the words of a well-formed command gives it back, with every operand. -/
def Obligations.DecodeEncodeRoundTrip : Prop :=
  ∀ i : Instr, i.wf = true → decode (encode i) = .ok i

/-- A request that decodes is, in its command word, the encoding of what it decodes to; what it decodes to is well formed; and the
operand words it uses are those of the encoding (the others are ignored, R80). -/
def Obligations.DecodedCommandReencodes : Prop :=
  ∀ (r : Request) (i : Instr), decode r = .ok i →
    i.wf = true ∧ (encode i).cmd = r.cmd ∧ decode ⟨r.cmd, (encode i).arg0, (encode i).arg1⟩ = .ok i

/-- The decoder accepts exactly the words that select a row of R88's table, and reads the command the row names; the table has 27
rows and no word selects two. -/
def Obligations.DecodeMatchesOpcodeTable : Prop :=
  opcodeTable.length = 27 ∧
  opcodeTable.Pairwise (fun p q => ∀ w : Word, ¬ (w &&& p.mask = p.pattern ∧ w &&& q.mask = q.pattern)) ∧
  (∀ (r : Request) (i : Instr), decode r = .ok i →
    ∃ row ∈ opcodeTable, row.mnemonic = i.mnemonic ∧ r.cmd &&& row.mask = row.pattern) ∧
  (∀ (r : Request) (row : TableRow), row ∈ opcodeTable → r.cmd &&& row.mask = row.pattern →
    ∃ i, decode r = .ok i ∧ i.mnemonic = row.mnemonic)

/-! ## Stepping -/

/-- Where the latched words decode to a command, a SEQ step is that command's step, and the schedule's entry is used up. That an
empty schedule lets SEQ move is the model's choice (log 6). -/
def Obligations.StepRunsDecodedCommand : Prop :=
  ∀ (s : State) (k : Nat) (i : Instr), s.pos = .busy k → decode ⟨s.cmd, s.arg0, s.arg1⟩ = .ok i →
    (s.inputs = [] → step s = exec i s) ∧
    (∀ rest, s.inputs = .seq :: rest → step s = exec i { s with inputs := rest })

/-- The step after `withFetchWord` runs the command whose bits are `w`, at position 0 with a free port, and nothing else of the
state has changed but the response's validity. `withFetchWord` is the model's own operation (log 17). -/
def Obligations.FetchWordRunsCommand : Prop :=
  ∀ (s : State) (nbits w : Nat) (i : Instr), decodeTableWord nbits w = some i →
    step (s.withFetchWord nbits w) =
      exec i { s with cmd := BitVec.ofNat 32 (w % 2 ^ nbits),
                      arg0 := BitVec.ofNat 32 (w % 2 ^ nbits / 2 ^ 32),
                      arg1 := BitVec.ofNat 32 (w % 2 ^ nbits / 2 ^ 64),
                      pos := .busy 0, respValid := false, bus := .free }

/-- HOST's request is latched only while SEQ is idle (R40, R261); SEQ's next step then runs it. That a request presented while a
command is in progress leaves no trace is the model's choice (log 13). -/
def Obligations.CommandAcceptedOnlyWhileIdle : Prop :=
  ∀ (s : State) (r : Request) (rest : List Input), s.inputs = .request r :: rest →
    (s.pos = .idle → step s = .next { s with inputs := rest, cmd := r.cmd, arg0 := r.arg0, arg1 := r.arg1,
                                             pos := .busy 0, respValid := false }) ∧
    (∀ k, s.pos = .busy k → step s = .next { s with inputs := rest })

/-- A command word that selects no row of the table raises ILLEGAL: of the hardware's state only `sticky`, the response and the
position change. -/
def Obligations.IllegalWordRaisesIllegal : Prop :=
  ∀ (s : State) (k : Nat), s.pos = .busy k → (∀ row ∈ opcodeTable, s.cmd &&& row.mask ≠ row.pattern) →
    seqStep s = .next { s with sticky := s.sticky ||| 0b10000, resp := ⟨.illegal, 0, 0⟩, respValid := true,
                               pos := .idle }

/-- No command faults or is refused, in any state, with any operands: every SEQ step of every command answers a next state. -/
def Obligations.EveryCommandAnswersNext : Prop :=
  ∀ (i : Instr) (s : State), ∃ t, exec i s = .next t

/-- R243: `raise S(info)` sets the sticky bit of `S` (R31's numbering), forms the response, returns to IDLE and changes nothing
else. `respValid` says that a response stands; it is the model's own field (log 5). -/
def Obligations.RaiseSetsStickyAndIdles : Prop :=
  ∀ (st : Status) (b : Nat) (info r1 : Word) (s : State),
    (st, b) ∈ [(Status.busError, 0), (Status.range, 1), (Status.unsupported, 2), (Status.unarmed, 3), (Status.illegal, 4)] →
    raiseStatus st info r1 s =
      { s with sticky := s.sticky ||| BitVec.twoPow 5 b, resp := ⟨st, info, r1⟩, respValid := true, pos := .idle }

/-! ## Clock -/

/-- R110: the timer event. -/
def Obligations.TimerEventSetsPendingWhenEnabled : Prop :=
  ∀ (s : State) (rest : List Input), s.inputs = .timer :: rest →
    step s = .next { s with inputs := rest, tickPend := if s.tmrEn then true else s.tickPend }

/-- R111: the tick handler, enabled iff a tick is pending, whatever SEQ is doing. That a handler entry of the schedule has no
effect while the handler is not enabled is the model's reading (log 15). -/
def Obligations.HandlerClearsPendingAndCounts : Prop :=
  ∀ (s : State) (rest : List Input), s.inputs = .handler :: rest →
    (s.tickPend = true → step s = .next { s with inputs := rest, tickPend := false, tick := s.tick + 1 }) ∧
    (s.tickPend = false → step s = .next { s with inputs := rest })

/-- `tick` changes only by the handler's step, by one, and by reset (R114); no command writes it (R118). -/
def Obligations.TickChangesOnlyByHandlerOrReset : Prop :=
  ∀ s t : State, step s = .next t →
    t.tick = s.tick ∨
    (∃ rest, s.inputs = .handler :: rest ∧ s.tickPend = true ∧ t.tick = s.tick + 1) ∨
    (∃ rest, s.inputs = .reset :: rest ∧ t.tick = 0)

/-- Under assumption EA1 (R116: a handler step between any two timer events) `n` periods add exactly `n` ticks, modulo 2^32,
whatever SEQ's position, and change nothing else. -/
def Obligations.OneTickPerPeriod : Prop :=
  ∀ (n : Nat) (s : State) (rest : List Input), s.tmrEn = true → s.tickPend = false → s.inputs = ticks n ++ rest →
    Sys2Proof.core.run (2 * n) s = .next { s with inputs := rest, tick := s.tick + BitVec.ofNat 32 n }

/-- R24, R281: two timer events with no handler step between them add one tick only. -/
def Obligations.SecondTimerEventIsLost : Prop :=
  ∀ (s : State) (rest : List Input), s.tmrEn = true → s.inputs = .timer :: .timer :: .handler :: rest →
    Sys2Proof.core.run 3 s = .next { s with inputs := rest, tickPend := false, tick := s.tick + 1 }

/-- `CLKINIT` (R112) enables the timer and `TIME` (R113) returns the tick; neither changes anything else. -/
def Obligations.ClkinitAndTimeAnswer : Prop :=
  ∀ s : State,
    exec .clkinit s = .next { s with tmrEn := true, resp := ⟨.ok, 0, 0⟩, respValid := true, pos := .idle } ∧
    exec .time s = .next { s with resp := ⟨.ok, s.tick, 0⟩, respValid := true, pos := .idle }

/-- `STAT` (R115): bit 0 `tmr_en`, bit 1 `tick_pend`, bit 2 `cc_dir`, bits 7:3 zero, bits 12:8 `sticky`, the rest zero. -/
def Obligations.StatReportsControlBits : Prop :=
  ∀ s : State, ∃ w : Word,
    exec .stat s = .next { s with resp := ⟨.ok, w, 0⟩, respValid := true, pos := .idle } ∧
    w.toNat = s.tmrEn.toNat + 2 * s.tickPend.toNat + 4 * (decide (s.ccDir = .backward)).toNat + 256 * s.sticky.toNat

/-! ## Delays and intervals -/

/-- R120: the comparison is the unsigned wrapping difference below 2^31, equivalently the signed difference not negative. -/
def Obligations.ReadyIsSignedDifference : Prop :=
  ∀ target t : Word,
    ready target t = decide ((t - target).toNat < 2 ^ 31) ∧ (ready target t = true ↔ 0 ≤ (t - target).toInt)

/-- `DNEW` (R121). -/
def Obligations.DnewArmsDelay : Prop :=
  ∀ (slot : Nat) (duration : Word) (s : State),
    (slot < s.dly.length → exec (.dnew slot duration) s =
      .next { s with dly := s.dly.set slot ⟨true, false, s.tick + duration⟩,
                     resp := ⟨.ok, s.tick + duration, 0⟩, respValid := true, pos := .idle }) ∧
    (s.dly.length ≤ slot → exec (.dnew slot duration) s =
      .next { s with sticky := s.sticky ||| 0b00010, resp := ⟨.range, 0, 0⟩, respValid := true, pos := .idle })

/-- `DPOLL` (R122), its checks in their order. -/
def Obligations.DpollAnswers : Prop :=
  ∀ (slot : Nat) (s : State),
    (s.dly.length ≤ slot → exec (.dpoll slot) s =
      .next { s with sticky := s.sticky ||| 0b00010, resp := ⟨.range, 0, 0⟩, respValid := true, pos := .idle }) ∧
    (∀ d, s.dly[slot]? = some d →
      (d.armed = false → exec (.dpoll slot) s =
        .next { s with sticky := s.sticky ||| 0b01000, resp := ⟨.unarmed, 0, 0⟩, respValid := true, pos := .idle }) ∧
      (d.armed = true → d.done = true → exec (.dpoll slot) s =
        .next { s with resp := ⟨.ok, 0, 0⟩, respValid := true, pos := .idle }) ∧
      (d.armed = true → d.done = false → (s.tick - d.target).toNat < 2 ^ 31 → exec (.dpoll slot) s =
        .next { s with dly := s.dly.set slot ⟨true, true, d.target⟩,
                       resp := ⟨.ok, 0, 0⟩, respValid := true, pos := .idle }) ∧
      (d.armed = true → d.done = false → 2 ^ 31 ≤ (s.tick - d.target).toNat → exec (.dpoll slot) s =
        .next { s with resp := ⟨.wouldBlock, 0, 0⟩, respValid := true, pos := .idle }))

/-- R123: a `DPOLL` that answers `OK` leaves its slot done; a slot that is done answers `OK` at whatever tick it is polled, and stays
so until it is armed again or reset comes: no other step writes it. -/
def Obligations.DoneDelayStaysReady : Prop :=
  ∀ (s : State) (slot : Nat),
    (∀ t, exec (.dpoll slot) s = .next t → t.resp.status = .ok →
      ∃ d, t.dly[slot]? = some d ∧ d.armed = true ∧ d.done = true) ∧
    (∀ d, s.dly[slot]? = some d → d.armed = true → d.done = true →
      exec (.dpoll slot) s = .next { s with resp := ⟨.ok, 0, 0⟩, respValid := true, pos := .idle } ∧
      (∀ t, step s = .next t → s.inputs.head? ≠ some .reset →
        (∀ duration k, inProgress s ≠ some (.dnew slot duration, k)) → t.dly[slot]? = some d))

/-- A delay armed with a duration of at most 2^31 ticks and polled `e` ticks later, within the half range, answers ready exactly
when `e` has reached the duration, also across the counter's wrap (R128, R129, R283). -/
def Obligations.DelayReadyExactlyAfterDuration : Prop :=
  ∀ (s : State) (slot : Nat) (start duration : Word) (e : Nat),
    s.dly[slot]? = some ⟨true, false, start + duration⟩ → s.tick = start + BitVec.ofNat 32 e →
    duration.toNat ≤ 2 ^ 31 → e < duration.toNat + 2 ^ 31 →
    (e < duration.toNat → exec (.dpoll slot) s =
      .next { s with resp := ⟨.wouldBlock, 0, 0⟩, respValid := true, pos := .idle }) ∧
    (duration.toNat ≤ e → exec (.dpoll slot) s =
      .next { s with dly := s.dly.set slot ⟨true, true, start + duration⟩,
                     resp := ⟨.ok, 0, 0⟩, respValid := true, pos := .idle })

/-- `INEW` (R125). -/
def Obligations.InewArmsInterval : Prop :=
  ∀ (slot : Nat) (period : Word) (s : State),
    (slot < s.ivl.length → exec (.inew slot period) s =
      .next { s with ivl := s.ivl.set slot ⟨true, s.tick + period, period⟩,
                     resp := ⟨.ok, s.tick + period, 0⟩, respValid := true, pos := .idle }) ∧
    (s.ivl.length ≤ slot → exec (.inew slot period) s =
      .next { s with sticky := s.sticky ||| 0b00010, resp := ⟨.range, 0, 0⟩, respValid := true, pos := .idle })

/-- `IPOLL` (R126): firing moves the target on by one period from the boundary, not from now. -/
def Obligations.IpollAnswers : Prop :=
  ∀ (slot : Nat) (s : State),
    (s.ivl.length ≤ slot → exec (.ipoll slot) s =
      .next { s with sticky := s.sticky ||| 0b00010, resp := ⟨.range, 0, 0⟩, respValid := true, pos := .idle }) ∧
    (∀ v, s.ivl[slot]? = some v →
      (v.armed = false → exec (.ipoll slot) s =
        .next { s with sticky := s.sticky ||| 0b01000, resp := ⟨.unarmed, 0, 0⟩, respValid := true, pos := .idle }) ∧
      (v.armed = true → (s.tick - v.target).toNat < 2 ^ 31 → exec (.ipoll slot) s =
        .next { s with ivl := s.ivl.set slot ⟨true, v.target + v.period, v.period⟩,
                       resp := ⟨.ok, 1, 0⟩, respValid := true, pos := .idle }) ∧
      (v.armed = true → 2 ^ 31 ≤ (s.tick - v.target).toNat → exec (.ipoll slot) s =
        .next { s with resp := ⟨.ok, 0, 0⟩, respValid := true, pos := .idle }))

/-- An interval polled late by `late` ticks fires once for each boundary crossed, `late / period + 1` times, and then not again;
after `j` fires its target stands `j` periods on. R127 gives these counts as the spec's own inference ("[derived: from rule
R126]"); the bounds on `late` and on the period are those of R128 and R283. -/
def Obligations.LateIntervalFiresOncePerBoundary : Prop :=
  ∀ (s : State) (slot : Nat) (v : IntervalSlot) (late : Nat), s.ivl[slot]? = some v → v.armed = true →
    (s.tick - v.target).toNat = late → late < 2 ^ 31 → 0 < v.period.toNat → v.period.toNat ≤ 2 ^ 31 →
    (∀ j, j ≤ late / v.period.toNat →
      (afterPolls slot (j + 1) s).resp = ⟨.ok, 1, 0⟩ ∧
      (afterPolls slot (j + 1) s).ivl[slot]? = some ⟨true, v.target + BitVec.ofNat 32 (j + 1) * v.period, v.period⟩) ∧
    (afterPolls slot (late / v.period.toNat + 2) s).resp = ⟨.ok, 0, 0⟩ ∧
    (afterPolls slot (late / v.period.toNat + 2) s).ivl[slot]? =
      some ⟨true, v.target + BitVec.ofNat 32 (late / v.period.toNat + 1) * v.period, v.period⟩

/-! ## The bus port and the codec -/

/-- At a position that has a transaction SEQ issues it on a free port, and only then; while it is unanswered SEQ holds (R53,
R54, R67): the state is unchanged. That issue, answer and taking are three moves is the model's reading (log 7), and so are the
position numbers of the commands other than CCSTEP (log 9). -/
def Obligations.TransactionIssuedThenHeld : Prop :=
  ∀ (i : Instr) (k : Nat) (tx : Transaction) (s : State), s.pos = .busy k → commandTx s.cfg s.ccDir k i = some tx →
    (s.bus = .free → exec i s = .next { s with bus := .outstanding tx }) ∧
    (∀ tx', s.bus = .outstanding tx' → exec i s = .next s)

/-- A transaction answered `Err(e)` ends its command, at whatever position, with `BUS_ERROR`: `e` unchanged in `res[0]`, in
`res[1]` the number of completed transactions for `PWMSETM`, `MOTOFF` and `MOTALL` and 0 for the others, the sticky bit set,
nothing else changed: no retry, no push, no indicator event, no rollback of the toggle (R91, R141, R227, R244, R245). The
position numbers of the commands other than CCSTEP are the model's choice (log 9). -/
def Obligations.BusErrorEndsCommand : Prop :=
  ∀ (i : Instr) (k : Nat) (tx tx' : Transaction) (e : Word) (s : State), s.pos = .busy k →
    commandTx s.cfg s.ccDir k i = some tx → s.bus = .answered tx' (.err e) →
    exec i s =
      .next { s with
        bus := .free, sticky := s.sticky ||| 0b00001, respValid := true, pos := .idle,
        resp := ⟨.busError, e, if i.mnemonic ∈ ["PWMSETM", "MOTOFF", "MOTALL"] then BitVec.ofNat 32 k else 0⟩ }

/-- BUS's step in every case. An answer that fits the outstanding transaction stands on the port and enters the history with it
(R53 to R55, R43). The late answer to a transaction that reset abandoned is discarded, also where a new command's transaction is
outstanding (R271). The model's: the moment a transaction enters the history and the opcode in the record (log 8); that an answer
of a shape BUS never gives is the fault `malformedAnswer`, and that an answer where none is awaited has no effect (log 14). -/
def Obligations.BusAnswerEntersHistory : Prop :=
  ∀ (s : State) (ans : BusAnswer) (rest : List Input),
    (s.inputs = .bus ans :: rest →
      (∀ tx, s.bus = .outstanding tx → ans.fits tx = true →
        step s = .next { s with inputs := rest, bus := .answered tx ans,
                                history := .transaction (opField s.cmd) tx (some ans) :: s.history }) ∧
      (∀ tx, s.bus = .outstanding tx → ans.fits tx = false → step s = .fault .malformedAnswer) ∧
      (s.bus = .free → step s = .next { s with inputs := rest }) ∧
      (∀ tx old, s.bus = .answered tx old → step s = .next { s with inputs := rest })) ∧
    (s.inputs = .lateBus ans :: rest → step s = .next { s with inputs := rest })

/-- `WRREG` (R136, R137): one write of the register byte and `n` value bytes, byte 0 of the data first; `n` outside 1..4 raises
RANGE with no transaction. -/
def Obligations.WrregWritesBytes : Prop :=
  ∀ (dev : DevAddr) (reg : Byte) (n : Nat) (data : Word) (s : State),
    (n < 1 ∨ 4 < n → exec (.wrreg dev reg n data) s =
      .next { s with sticky := s.sticky ||| 0b00010, resp := ⟨.range, 0, 0⟩, respValid := true, pos := .idle }) ∧
    (1 ≤ n → n ≤ 4 →
      (s.bus = .free → exec (.wrreg dev reg n data) s =
        .next { s with bus := .outstanding (.write dev
          (reg :: (List.range n).map fun i => BitVec.ofNat 8 (data.toNat / 256 ^ i))) }) ∧
      (∀ tx r, s.bus = .answered tx (.ok r) → exec (.wrreg dev reg n data) s =
        .next { s with bus := .free, resp := ⟨.ok, 0, 0⟩, respValid := true, pos := .idle }))

/-- `RDREG` and `RDREG.AI` (R138, R140): one read of `n` bytes, the flag in bit 7 of the start byte; byte `i` of the answer stands
at lane `i` of the two result words and unused lanes are 0; `n` outside 1..8 raises RANGE with no transaction. -/
def Obligations.RdregReturnsLanes : Prop :=
  ∀ (dev : DevAddr) (reg : Byte) (ai : Bool) (n : Nat) (s : State),
    (n < 1 ∨ 8 < n → exec (.rdreg dev reg ai n) s =
      .next { s with sticky := s.sticky ||| 0b00010, resp := ⟨.range, 0, 0⟩, respValid := true, pos := .idle }) ∧
    (1 ≤ n → n ≤ 8 →
      (s.bus = .free → exec (.rdreg dev reg ai n) s =
        .next { s with bus := .outstanding (.writeThenRead dev [if ai then reg ||| 0x80 else reg] n) }) ∧
      (∀ tx r, s.bus = .answered tx (.ok r) → r.length = n → ∃ w0 w1 : Word,
        exec (.rdreg dev reg ai n) s =
          .next { s with bus := .free, resp := ⟨.ok, w0, w1⟩, respValid := true, pos := .idle } ∧
        (∀ i, i < 4 → w0.extractLsb' (8 * i) 8 = r.getD i 0) ∧
        (∀ i, i < 4 → w1.extractLsb' (8 * i) 8 = r.getD (4 + i) 0)))

/-! ## Sensors -/

/-- `ACCINIT` (R151): one write of rate and `ACC_CTRL_LOW` to register 0x20. -/
def Obligations.AccinitWritesControl : Prop :=
  ∀ (rate : BitVec 4) (s : State),
    (s.bus = .free → exec (.accinit rate) s =
      .next { s with bus := .outstanding (.write s.cfg.accAddr
        [0x20, BitVec.ofNat 8 (16 * rate.toNat + s.cfg.accCtrlLow.toNat)]) }) ∧
    (∀ tx r, s.bus = .answered tx (.ok r) → exec (.accinit rate) s =
      .next { s with bus := .free, resp := ⟨.ok, 0, 0⟩, respValid := true, pos := .idle })

/-- R153: the accelerometer's six bytes are three little-endian signed words, axis order X, Y, Z. -/
def Obligations.AccelerometerDecoding : Prop :=
  ∀ r0 r1 r2 r3 r4 r5 : Byte,
    accDecode [r0, r1, r2, r3, r4, r5] = ⟨r1 ++ r0, r3 ++ r2, r5 ++ r4⟩ ∧
    (accDecode [r0, r1, r2, r3, r4, r5]).x.toInt = Int.bmod (256 * r1.toNat + r0.toNat) (2 ^ 16) ∧
    (accDecode [r0, r1, r2, r3, r4, r5]).y.toInt = Int.bmod (256 * r3.toNat + r2.toNat) (2 ^ 16) ∧
    (accDecode [r0, r1, r2, r3, r4, r5]).z.toInt = Int.bmod (256 * r5.toNat + r4.toNat) (2 ^ 16)

/-- `ACCRD` (R152): the start byte is 0xA8; the response packs Y and X in `res[0]` and Z in `res[1]` (R83). -/
def Obligations.AccrdReturnsSample : Prop :=
  ∀ s : State,
    (s.bus = .free → exec .accrd s = .next { s with bus := .outstanding (.writeThenRead s.cfg.accAddr [0xA8] 6) }) ∧
    (∀ tx r0 r1 r2 r3 r4 r5, s.bus = .answered tx (.ok [r0, r1, r2, r3, r4, r5]) → exec .accrd s =
      .next { s with bus := .free, resp := ⟨.ok, r3 ++ r2 ++ r1 ++ r0, 0#16 ++ r5 ++ r4⟩, respValid := true,
                     pos := .idle })

/-- `MAGRD` (R160): the start byte is 0x03; the bytes are big-endian words in the order X, Z, Y; the response is packed as R83. -/
def Obligations.MagrdReturnsSample : Prop :=
  ∀ s : State,
    (s.bus = .free → exec .magrd s = .next { s with bus := .outstanding (.writeThenRead s.cfg.magAddr [0x03] 6) }) ∧
    (∀ tx r0 r1 r2 r3 r4 r5, s.bus = .answered tx (.ok [r0, r1, r2, r3, r4, r5]) → exec .magrd s =
      .next { s with bus := .free, resp := ⟨.ok, r4 ++ r5 ++ r0 ++ r1, 0#16 ++ r2 ++ r3⟩, respValid := true,
                     pos := .idle })

/-- `ACCTEMP` and `MAGTEMP` (R155, R162): UNSUPPORTED, no transaction, no value. -/
def Obligations.TemperatureReadsUnsupported : Prop :=
  ∀ s : State,
    exec .acctemp s = .next { s with sticky := s.sticky ||| 0b00100, resp := ⟨.unsupported, 0, 0⟩, respValid := true,
                                     pos := .idle } ∧
    exec .magtemp s = .next { s with sticky := s.sticky ||| 0b00100, resp := ⟨.unsupported, 0, 0⟩, respValid := true,
                                     pos := .idle }

/-- `MAGINIT` (R158): the mode write, then the rate write with the rate byte of R159, then `OK`. The position numbers are the
model's choice (log 9). -/
def Obligations.MaginitModeThenRate : Prop :=
  ∀ (rate : BitVec 3) (s : State),
    (s.pos = .busy 0 → s.bus = .free → exec (.maginit rate) s =
      .next { s with bus := .outstanding (.write s.cfg.magAddr [0x02, 0x00]) }) ∧
    (∀ tx r, s.pos = .busy 0 → s.bus = .answered tx (.ok r) → exec (.maginit rate) s =
      .next { s with bus := .free, pos := .busy 1 }) ∧
    (s.pos = .busy 1 → s.bus = .free → exec (.maginit rate) s =
      .next { s with bus := .outstanding (.write s.cfg.magAddr [0x00, BitVec.ofNat 8 (0x80 + 4 * rate.toNat)]) }) ∧
    (∀ tx r, s.pos = .busy 1 → s.bus = .answered tx (.ok r) → exec (.maginit rate) s =
      .next { s with bus := .free, resp := ⟨.ok, 0, 0⟩, respValid := true, pos := .idle })

/-! ## PWM -/

/-- `PWMINIT` (R171): one write of 0x21 to the mode register 0x00. -/
def Obligations.PwminitWritesMode : Prop :=
  ∀ s : State,
    (s.bus = .free → exec .pwminit s = .next { s with bus := .outstanding (.write s.cfg.pwmAddr [0x00, 0x21]) }) ∧
    (∀ tx r, s.bus = .answered tx (.ok r) → exec .pwminit s =
      .next { s with bus := .free, resp := ⟨.ok, 0, 0⟩, respValid := true, pos := .idle })

/-- `PWMSET` (R172 to R174): one write of the four-byte encoding to the channel's base register; any operand out of range raises
RANGE, with no transaction and no truncation. -/
def Obligations.PwmsetWritesChannel : Prop :=
  ∀ (ch : Nat) (on off : Half) (s : State),
    (15 < ch ∨ 0xFFF < on.toNat ∨ 0xFFF < off.toNat → exec (.pwmset ch on off) s =
      .next { s with sticky := s.sticky ||| 0b00010, resp := ⟨.range, 0, 0⟩, respValid := true, pos := .idle }) ∧
    (ch ≤ 15 → on.toNat ≤ 0xFFF → off.toNat ≤ 0xFFF →
      (s.bus = .free → exec (.pwmset ch on off) s =
        .next { s with bus := .outstanding (.write s.cfg.pwmAddr
          [BitVec.ofNat 8 (0x06 + 4 * ch), BitVec.ofNat 8 (on.toNat % 256), BitVec.ofNat 8 (on.toNat / 256),
           BitVec.ofNat 8 (off.toNat % 256), BitVec.ofNat 8 (off.toNat / 256)]) }) ∧
      (∀ tx r, s.bus = .answered tx (.ok r) → exec (.pwmset ch on off) s =
        .next { s with bus := .free, resp := ⟨.ok, 0, 0⟩, respValid := true, pos := .idle }))

/-- `PWMSETM` (R176): one write for each set bit of the mask, in ascending channel order, at one position each; `OK` with the
number of writes after the last, at once for an empty mask; a pair out of range raises RANGE. The position numbers are the
model's choice (log 9). -/
def Obligations.PwmsetmWritesSelectedChannels : Prop :=
  ∀ (mask on off : Half) (s : State) (chs : List Nat), chs.Pairwise (· < ·) → (∀ ch, ch ∈ chs ↔ ch < 16 ∧ mask.getLsbD ch = true) →
    (0xFFF < on.toNat ∨ 0xFFF < off.toNat → exec (.pwmsetm mask on off) s =
      .next { s with sticky := s.sticky ||| 0b00010, resp := ⟨.range, 0, 0⟩, respValid := true, pos := .idle }) ∧
    (on.toNat ≤ 0xFFF → off.toNat ≤ 0xFFF →
      (mask = 0 → exec (.pwmsetm mask on off) s =
        .next { s with resp := ⟨.ok, 0, 0⟩, respValid := true, pos := .idle }) ∧
      (∀ k ch, s.pos = .busy k → chs[k]? = some ch →
        (s.bus = .free → exec (.pwmsetm mask on off) s =
          .next { s with bus := .outstanding (.write s.cfg.pwmAddr
            [BitVec.ofNat 8 (0x06 + 4 * ch), BitVec.ofNat 8 (on.toNat % 256), BitVec.ofNat 8 (on.toNat / 256),
             BitVec.ofNat 8 (off.toNat % 256), BitVec.ofNat 8 (off.toNat / 256)]) }) ∧
        (∀ tx r, s.bus = .answered tx (.ok r) → exec (.pwmsetm mask on off) s =
          if k + 1 < chs.length then .next { s with bus := .free, pos := .busy (k + 1) }
          else .next { s with bus := .free, resp := ⟨.ok, 0, BitVec.ofNat 32 chs.length⟩, respValid := true,
                              pos := .idle })))

/-! ## Motors -/

/-- `MOTSPD` (R187, R188): the antagonist's channel is written off and acknowledged before the active channel is written; a
speed above 0xFFF raises RANGE with no transaction. The position numbers are the model's choice (log 9). -/
def Obligations.MotspdAntagonistFirst : Prop :=
  ∀ (m : Motor) (d : Direction) (speed : Half) (s : State),
    (0xFFF < speed.toNat → exec (.motspd m d speed) s =
      .next { s with sticky := s.sticky ||| 0b00010, resp := ⟨.range, 0, 0⟩, respValid := true, pos := .idle }) ∧
    (speed.toNat ≤ 0xFFF →
      (s.pos = .busy 0 → s.bus = .free → exec (.motspd m d speed) s =
        .next { s with bus := .outstanding (setPwm s.cfg (s.cfg.chMap.chan m d.flip).val 0 0xFFF) }) ∧
      (∀ tx r, s.pos = .busy 0 → s.bus = .answered tx (.ok r) → exec (.motspd m d speed) s =
        .next { s with bus := .free, pos := .busy 1 }) ∧
      (s.pos = .busy 1 → s.bus = .free → exec (.motspd m d speed) s =
        .next { s with bus := .outstanding (setPwm s.cfg (s.cfg.chMap.chan m d).val speed (0xFFF - speed)) }) ∧
      (∀ tx r, s.pos = .busy 1 → s.bus = .answered tx (.ok r) → exec (.motspd m d speed) s =
        .next { s with bus := .free, resp := ⟨.ok, 0, 0⟩, respValid := true, pos := .idle }))

/-- `MOTOFF` (R190): position `k` writes channel `k` off; after the eighth acknowledged write the response is `(OK, 0, 8)`. The
position numbers are the model's choice (log 9). -/
def Obligations.MotoffWritesEightChannelsOff : Prop :=
  ∀ (k : Nat) (s : State), s.pos = .busy k → k < 8 →
    (s.bus = .free → exec .motoff s =
      .next { s with bus := .outstanding (.write s.cfg.pwmAddr
        [BitVec.ofNat 8 (0x06 + 4 * k), 0x00, 0x00, 0xFF, 0x0F]) }) ∧
    (∀ tx r, s.bus = .answered tx (.ok r) → exec .motoff s =
      if k < 7 then .next { s with bus := .free, pos := .busy (k + 1) }
      else .next { s with bus := .free, resp := ⟨.ok, 0, 8⟩, respValid := true, pos := .idle })

/-- `MOTALL` (R192): position `2j` writes the antagonist of motor `j` off, position `2j+1` drives it, for the motors in the
order FL, FR, RL, RR; after the eighth acknowledged write the response is `(OK, 0, 8)`; a speed above 0xFFF raises RANGE. The
position numbers are the model's choice (log 9). -/
def Obligations.MotallDrivesFourMotors : Prop :=
  ∀ (d : Direction) (speed : Half) (s : State),
    (0xFFF < speed.toNat → exec (.motall d speed) s =
      .next { s with sticky := s.sticky ||| 0b00010, resp := ⟨.range, 0, 0⟩, respValid := true, pos := .idle }) ∧
    (speed.toNat ≤ 0xFFF →
      (∀ j m, [Motor.frontLeft, .frontRight, .rearLeft, .rearRight][j]? = some m → s.bus = .free →
        (s.pos = .busy (2 * j) → exec (.motall d speed) s =
          .next { s with bus := .outstanding (setPwm s.cfg (s.cfg.chMap.chan m d.flip).val 0 0xFFF) }) ∧
        (s.pos = .busy (2 * j + 1) → exec (.motall d speed) s =
          .next { s with bus := .outstanding (setPwm s.cfg (s.cfg.chMap.chan m d).val speed (0xFFF - speed)) })) ∧
      (∀ k tx r, s.pos = .busy k → k < 8 → s.bus = .answered tx (.ok r) → exec (.motall d speed) s =
        if k < 7 then .next { s with bus := .free, pos := .busy (k + 1) }
        else .next { s with bus := .free, resp := ⟨.ok, 0, 8⟩, respValid := true, pos := .idle }))

/-- From an idle machine, `MOTOFF` presented and every write answered `Ok` runs to `(OK, 0, 8)`: the history grows by the eight
off-writes to channels 0 to 7, in this order, and nothing but the command registers, the response and the history has changed.
The three moves of a transaction are the model's reading (log 7). -/
def Obligations.MotoffRunsToCompletion : Prop :=
  ∀ (s : State) (a0 a1 : Word) (rest : List Input), s.pos = .idle → s.bus = .free →
    s.inputs = .request ⟨0x51000000, a0, a1⟩ :: (writesAnswered 8 ++ rest) →
    Sys2Proof.core.run 25 s =
      .next { s with inputs := rest, cmd := 0x51000000, arg0 := a0, arg1 := a1, resp := ⟨.ok, 0, 8⟩, respValid := true,
                     history := writesDone 0x51 ((List.range 8).map fun ch => setPwm s.cfg ch 0 0xFFF) ++ s.history }

/-! ## Filter -/

/-- `FPUSH` (R201, R202): the oldest sample leaves, the others move one place toward index 0, the new one is the newest. -/
def Obligations.FpushShiftsWindow : Prop :=
  ∀ (smp : Sample) (s : State),
    exec (.fpush smp) s =
      .next { s with win := ⟨s.win.w1, s.win.w2, s.win.w3, s.win.w4, smp⟩, resp := ⟨.ok, 0, 0⟩, respValid := true,
                     pos := .idle }

/-- R207: after any sequence of pushes the window holds the five most recent samples of the window before and the sequence, oldest
first. -/
def Obligations.WindowRetainsLastFive : Prop :=
  ∀ (w : Window) (l : List Sample), (l.foldl Window.push w).toList = (w.toList ++ l).drop l.length

/-- `FMEAN` (R203, R204): for all legal `MEAN_LO`, `MEAN_HI`, each axis of the returned sample is, as a signed number, the exact sum
of the samples `MEAN_LO .. MEAN_HI-1` divided by 5 and truncated toward zero; the window is unchanged. -/
def Obligations.FmeanTruncatesTowardZero : Prop :=
  ∀ s : State, s.cfg.wf = true → ∃ x y z : Half,
    exec .fmean s = .next { s with resp := ⟨.ok, y ++ x, 0#16 ++ z⟩, respValid := true, pos := .idle } ∧
    x.toInt = (((s.win.toList.take s.cfg.meanHi).drop s.cfg.meanLo).map fun (v : Sample) => v.x.toInt).sum.tdiv 5 ∧
    y.toInt = (((s.win.toList.take s.cfg.meanHi).drop s.cfg.meanLo).map fun (v : Sample) => v.y.toInt).sum.tdiv 5 ∧
    z.toInt = (((s.win.toList.take s.cfg.meanHi).drop s.cfg.meanLo).map fun (v : Sample) => v.z.toInt).sum.tdiv 5

/-- `FGET` (R206): element `idx`, oldest first; an index above 4 raises RANGE. -/
def Obligations.FgetReturnsElement : Prop :=
  ∀ (idx : Nat) (s : State),
    (∀ smp, [s.win.w0, s.win.w1, s.win.w2, s.win.w3, s.win.w4][idx]? = some smp → exec (.fget idx) s =
      .next { s with resp := ⟨.ok, smp.y ++ smp.x, 0#16 ++ smp.z⟩, respValid := true, pos := .idle }) ∧
    (4 < idx → exec (.fget idx) s =
      .next { s with sticky := s.sticky ||| 0b00010, resp := ⟨.range, 0, 0⟩, respValid := true, pos := .idle })

/-! ## Collision controller -/

/-- R217, R219: detection is the strict comparison of the exact signed difference live minus mean with 10000, on any axis; a negative
difference never triggers. -/
def Obligations.DetectIsSignedStrict : Prop :=
  ∀ live base : Sample, detect live base = true ↔
    live.x.toInt - base.x.toInt > 10000 ∨ live.y.toInt - base.y.toInt > 10000 ∨ live.z.toInt - base.z.toInt > 10000

/-- `CCEVAL` (R218): 1 for a collision against the current baseline, else 0; no state is written. -/
def Obligations.CcevalAnswersDetection : Prop :=
  ∀ (live : Sample) (s : State),
    (detect live (mean s.cfg s.win) = true → exec (.cceval live) s =
      .next { s with resp := ⟨.ok, 1, 0⟩, respValid := true, pos := .idle }) ∧
    (detect live (mean s.cfg s.win) = false → exec (.cceval live) s =
      .next { s with resp := ⟨.ok, 0, 0⟩, respValid := true, pos := .idle })

/-- `CCSTEP` (R220 to R226), position by position. At position 22 `hit` is `detect` of `cc_live` against the mean of the window, which
no step of the cycle has changed since position 1 (the model's reading, log 12). -/
def Obligations.CcstepFollowsPositions : Prop :=
  ∀ (live : Sample) (s : State),
    (s.pos = .busy 0 → exec (.ccstep live) s = .next { s with ccLive := live, pos := .busy 1 }) ∧
    (s.pos = .busy 1 → exec (.ccstep live) s =
      .next { s with pos := if detect s.ccLive (mean s.cfg s.win) then .busy 2 else .busy 22 }) ∧
    (s.pos = .busy 2 → exec (.ccstep live) s = .next { s with ccDir := s.ccDir.flip, pos := .busy 3 }) ∧
    (∀ ch, ch < 8 → s.pos = .busy (3 + ch) → s.bus = .free → exec (.ccstep live) s =
      .next { s with bus := .outstanding (setPwm s.cfg ch 0 0xFFF) }) ∧
    (∀ ch tx r, ch < 8 → s.pos = .busy (3 + ch) → s.bus = .answered tx (.ok r) → exec (.ccstep live) s =
      .next { s with bus := .free, pos := .busy (4 + ch) }) ∧
    (s.pos = .busy 11 → exec (.ccstep live) s = .next { s with ccSettle := s.tick + 1000, pos := .busy 12 }) ∧
    (s.pos = .busy 12 → exec (.ccstep live) s =
      .next { s with pos := if ready s.ccSettle s.tick then .busy 13 else .busy 12 }) ∧
    (∀ j m, [Motor.frontLeft, .frontRight, .rearLeft, .rearRight][j]? = some m → s.bus = .free →
      (s.pos = .busy (13 + 2 * j) → exec (.ccstep live) s =
        .next { s with bus := .outstanding (setPwm s.cfg (s.cfg.chMap.chan m s.ccDir.flip).val 0 0xFFF) }) ∧
      (s.pos = .busy (14 + 2 * j) → exec (.ccstep live) s =
        .next { s with bus := .outstanding (setPwm s.cfg (s.cfg.chMap.chan m s.ccDir).val
          (s.cfg.driveSpeed.setWidth 16) (0xFFF - s.cfg.driveSpeed.setWidth 16)) })) ∧
    (∀ k tx r, k < 8 → s.pos = .busy (13 + k) → s.bus = .answered tx (.ok r) → exec (.ccstep live) s =
      .next { s with bus := .free, pos := .busy (14 + k) }) ∧
    (s.pos = .busy 21 → exec (.ccstep live) s =
      .next { s with history := .indicator (if s.ccDir = .forward then s.cfg.indFwd else s.cfg.indBwd) :: s.history,
                     pos := .busy 22 }) ∧
    (s.pos = .busy 22 → exec (.ccstep live) s =
      .next { s with win := ⟨s.win.w1, s.win.w2, s.win.w3, s.win.w4, s.ccLive⟩, respValid := true, pos := .idle,
                     resp := ⟨.ok, if detect s.ccLive (mean s.cfg s.win) then 1 else 0,
                              if s.ccDir = .backward then 1 else 0⟩ })

/-- `CCCYCLE` (R231): position 0 reads a sample with `ACCRD`'s transaction into `cc_live`; from position 1 on it goes as
`CCSTEP`, to its response. `hit` at position 22 is the model's reading (log 12). -/
def Obligations.CccycleReadsThenFollowsCcstep : Prop :=
  ∀ s : State,
    (s.pos = .busy 0 → s.bus = .free → exec .cccycle s =
      .next { s with bus := .outstanding (.writeThenRead s.cfg.accAddr [0xA8] 6) }) ∧
    (∀ tx r0 r1 r2 r3 r4 r5, s.pos = .busy 0 → s.bus = .answered tx (.ok [r0, r1, r2, r3, r4, r5]) → exec .cccycle s =
      .next { s with bus := .free, ccLive := ⟨r1 ++ r0, r3 ++ r2, r5 ++ r4⟩, pos := .busy 1 }) ∧
    (∀ k live, s.pos = .busy (k + 1) → exec .cccycle s = exec (.ccstep live) s) ∧
    (s.pos = .busy 22 → exec .cccycle s =
      .next { s with win := ⟨s.win.w1, s.win.w2, s.win.w3, s.win.w4, s.ccLive⟩, respValid := true, pos := .idle,
                     resp := ⟨.ok, if detect s.ccLive (mean s.cfg s.win) then 1 else 0,
                              if s.ccDir = .backward then 1 else 0⟩ })

/-- R220, R221: a cycle without a collision, presented to an idle machine, responds after its three positions; it issues no
transaction and its only change of state is the push (beside the registers of the command in progress). -/
def Obligations.QuietCycleOnlyPushes : Prop :=
  ∀ (s : State) (a0 a1 : Word) (rest : List Input), s.pos = .idle →
    s.inputs = .request ⟨0x73000000, a0, a1⟩ :: .seq :: .seq :: .seq :: rest →
    detect (unpack a0 a1) (mean s.cfg s.win) = false →
    Sys2Proof.core.run 4 s =
      .next { s with inputs := rest, cmd := 0x73000000, arg0 := a0, arg1 := a1, ccLive := unpack a0 a1,
                     win := ⟨s.win.w1, s.win.w2, s.win.w3, s.win.w4, unpack a0 a1⟩,
                     resp := ⟨.ok, 0, if s.ccDir = .backward then 1 else 0⟩, respValid := true }

/-- R220 to R226: the whole reaction. A colliding `CCSTEP` on an idle machine with the clock running, every write answered `Ok`: the
direction is toggled and the eight off-writes come first. While fewer than 1000 ticks have come since, SEQ steps, however many,
leave it at the settle wait, position 12. After at least 1000 ticks (fewer than 2^31 more) the eight writes follow that drive the
four motors in the new direction, then one indicator event, then the push; the response is `(OK, 1, cc_dir)`. The three moves of
a transaction are the model's reading (log 7), the opcode in the history's records is its choice (log 8). -/
def Obligations.CollisionReactionCompletes : Prop :=
  ∀ (s : State) (a0 a1 : Word), s.pos = .idle → s.bus = .free → s.tmrEn = true → s.tickPend = false →
    detect (unpack a0 a1) (mean s.cfg s.win) = true →
    (∀ (m j : Nat) (rest : List Input), m < 1000 →
      s.inputs = stopSchedule a0 a1 ++ (ticks m ++ (List.replicate j Input.seq ++ rest)) →
      Sys2Proof.core.run (29 + 2 * m + j) s =
        .next { s with
          inputs := rest, cmd := 0x73000000, arg0 := a0, arg1 := a1, pos := .busy 12, tick := s.tick + BitVec.ofNat 32 m,
          ccDir := s.ccDir.flip, ccLive := unpack a0 a1, ccSettle := s.tick + 1000, respValid := false,
          history := writesDone 0x73 ((List.range 8).map fun ch => setPwm s.cfg ch 0 0xFFF) ++ s.history }) ∧
    (∀ (n : Nat) (rest : List Input), 1000 ≤ n → n < 1000 + 2 ^ 31 → s.inputs = reactionSchedule a0 a1 n ++ rest →
      Sys2Proof.core.run (56 + 2 * n) s =
        .next { s with
          inputs := rest, cmd := 0x73000000, arg0 := a0, arg1 := a1, tick := s.tick + BitVec.ofNat 32 n,
          ccDir := s.ccDir.flip, ccLive := unpack a0 a1, ccSettle := s.tick + 1000,
          win := ⟨s.win.w1, s.win.w2, s.win.w3, s.win.w4, unpack a0 a1⟩,
          resp := ⟨.ok, 1, if s.ccDir.flip = .backward then 1 else 0⟩, respValid := true,
          history := .indicator (if s.ccDir.flip = .forward then s.cfg.indFwd else s.cfg.indBwd)
            :: writesDone 0x73 (driveAll s.cfg s.ccDir.flip (s.cfg.driveSpeed.setWidth 16))
            ++ writesDone 0x73 ((List.range 8).map fun ch => setPwm s.cfg ch 0 0xFFF) ++ s.history })

/-! ## The whole machine -/

/-- R270, R271: the reset input, at any time, also during a command: every item with a reset value has it, no response is
produced, no transaction is issued and no event sent. An outstanding transaction stands in the history without an answer
afterwards; with a free or an answered port the history is as before. The values of the items that R20 leaves unspecified are
the model's choice (log 4) and so are those of the response port (log 5), the record of an abandoned transaction (log 8), and
that parameters, slot counts, schedule and history stay (log 16). -/
def Obligations.ResetInputRestoresResetState : Prop :=
  ∀ (s : State) (rest : List Input), s.inputs = .reset :: rest → ∃ t, step s = .next t ∧
    t.tick = 0 ∧ t.tmrEn = false ∧ t.tickPend = false ∧
    t.dly.length = s.dly.length ∧ (∀ d ∈ t.dly, d.armed = false ∧ d.done = false) ∧
    t.ivl.length = s.ivl.length ∧ (∀ v ∈ t.ivl, v.armed = false) ∧
    (∀ smp ∈ t.win.toList, smp = ⟨0, 0, 0⟩) ∧ t.ccDir = .forward ∧ t.sticky = 0 ∧ t.pos = .idle ∧
    t.respValid = false ∧ t.bus = .free ∧ t.cfg = s.cfg ∧ t.inputs = rest ∧
    (∀ tx, s.bus = .outstanding tx → t.history = .transaction (opField s.cmd) tx none :: s.history) ∧
    ((∀ tx, s.bus ≠ .outstanding tx) → t.history = s.history)

/-- The machine after reset holds the values R20 and R270 give, and meets the invariants that every step keeps. The slot counts
and mean bounds at reset are the spec's defaults, which the model takes (log 3). -/
def Obligations.ResetStateMeetsInvariants : Prop :=
  State.reset.tick = 0 ∧ State.reset.tmrEn = false ∧ State.reset.tickPend = false ∧
  (∀ d ∈ State.reset.dly, d.armed = false ∧ d.done = false) ∧ (∀ v ∈ State.reset.ivl, v.armed = false) ∧
  State.reset.win = ⟨⟨0, 0, 0⟩, ⟨0, 0, 0⟩, ⟨0, 0, 0⟩, ⟨0, 0, 0⟩, ⟨0, 0, 0⟩⟩ ∧ State.reset.ccDir = .forward ∧
  State.reset.sticky = 0 ∧ State.reset.pos = .idle ∧ State.reset.Inv ∧ State.reset.MotorSafe

/-- Every step keeps the invariant of the state: the parameters stay legal, the numbers of slots in their range, a pending tick
means an enabled timer, a delay reported ready is armed, SEQ stands at a position of the command in progress, the port carries that
position's transaction or an answer that fits it, and during a reaction the detected collision still stands. -/
def Obligations.StepKeepsInvariant : Prop :=
  ∀ s t : State, s.Inv → step s = .next t → t.Inv

/-- R189, the motors' safety invariant: every step keeps that each write by a motor command or a control cycle of a pair other
than `(0, 0xFFF)` to a motor's channel is immediately preceded in the history by the antagonist's off-write, answered `Ok`. The
order and the opcodes of the history are the model's (log 8). -/
def Obligations.StepKeepsMotorSafety : Prop :=
  ∀ s t : State, s.Inv → s.MotorSafe → step s = .next t → t.MotorSafe

/-- R31, R23: a sticky bit once set and the timer's enable once set stay set until reset. -/
def Obligations.StickyAndEnableStayUntilReset : Prop :=
  ∀ s t : State, step s = .next t → s.inputs.head? ≠ some .reset →
    s.sticky &&& t.sticky = s.sticky ∧ (s.tmrEn = true → t.tmrEn = true)

/-- The writers of R20's table, item by item: outside reset each item is changed only by the agent and the command that the table
names for it, and in a slot only the fields that it names; of the control cycle, `cc_live` at position 0, `cc_dir` by the toggle
at position 2 (R222), `cc_settle` at position 11 (R224). The response of R32 changes only where a command ends. That acceptance is
a step of HOST which sets the position is the model's (log 13). The parameters and the numbers of slots never change; that they
stay at reset too is the model's choice (log 16). -/
def Obligations.OnlyNamedWritersChangeState : Prop :=
  ∀ s t : State, step s = .next t →
    t.cfg = s.cfg ∧ t.dly.length = s.dly.length ∧ t.ivl.length = s.ivl.length ∧
    (s.inputs.head? ≠ some .reset →
      (t.tick ≠ s.tick → s.inputs.head? = some .handler ∧ s.tickPend = true) ∧
      (t.tmrEn ≠ s.tmrEn → ∃ k, inProgress s = some (.clkinit, k)) ∧
      (t.tickPend ≠ s.tickPend →
        (s.inputs.head? = some .timer ∧ s.tmrEn = true ∧ t.tickPend = true) ∨
        (s.inputs.head? = some .handler ∧ t.tickPend = false)) ∧
      (∀ slot d d', s.dly[slot]? = some d → t.dly[slot]? = some d' → d' ≠ d →
        (∃ duration k, inProgress s = some (.dnew slot duration, k)) ∨
        (∃ k, inProgress s = some (.dpoll slot, k) ∧ d' = { d with done := true })) ∧
      (∀ slot v v', s.ivl[slot]? = some v → t.ivl[slot]? = some v' → v' ≠ v →
        (∃ period k, inProgress s = some (.inew slot period, k)) ∨
        (∃ k, inProgress s = some (.ipoll slot, k) ∧ v' = { v with target := v.target + v.period })) ∧
      (t.win ≠ s.win → ∃ i k, inProgress s = some (i, k) ∧ i.mnemonic ∈ ["FPUSH", "CCSTEP", "CCCYCLE"]) ∧
      (t.ccDir ≠ s.ccDir → t.ccDir = s.ccDir.flip ∧
        ∃ i, inProgress s = some (i, 2) ∧ i.mnemonic ∈ ["CCSTEP", "CCCYCLE"]) ∧
      (t.ccLive ≠ s.ccLive → ∃ i, inProgress s = some (i, 0) ∧ i.mnemonic ∈ ["CCSTEP", "CCCYCLE"]) ∧
      (t.ccSettle ≠ s.ccSettle → ∃ i, inProgress s = some (i, 11) ∧ i.mnemonic ∈ ["CCSTEP", "CCCYCLE"]) ∧
      (t.sticky ≠ s.sticky →
        (∃ k, s.pos = .busy k) ∧ t.pos = .idle ∧ t.resp.status ≠ .ok ∧ t.resp.status ≠ .wouldBlock) ∧
      ((t.cmd ≠ s.cmd ∨ t.arg0 ≠ s.arg0 ∨ t.arg1 ≠ s.arg1) →
        s.pos = .idle ∧ ∃ r, s.inputs.head? = some (.request r)) ∧
      (t.pos ≠ s.pos →
        (s.pos = .idle ∧ t.pos = .busy 0 ∧ ∃ r, s.inputs.head? = some (.request r)) ∨
        ((∃ k, s.pos = .busy k) ∧ (s.inputs = [] ∨ s.inputs.head? = some .seq))) ∧
      (t.resp ≠ s.resp → (∃ k, s.pos = .busy k) ∧ t.pos = .idle))

/-- R43, R67: the history is a total order that only grows, by at most one event a step. That reset keeps it is the model's
choice (log 16). -/
def Obligations.HistoryOnlyGrows : Prop :=
  ∀ s t : State, step s = .next t → t.history = s.history ∨ ∃ e, t.history = e :: s.history
end

