-- ==== Sys2Proof/Laws/Operands.lean ====
section
/-! SUPPORT. The lists of transactions a command makes: how many there are, which stands at which position, and that a write to a
channel says which channel and which pair it is (44_pwm_driver.md R172, 45_motor.md R186 to R192). -/

namespace Sys2Proof.Machine

/-! ## Lengths and positions -/

@[simp] theorem magInitWrites_length (cfg : Config) (rate : BitVec 3) : (magInitWrites cfg rate).length = 2 := rfl
@[simp] theorem setMotorSpeed_length (cfg : Config) (m : Motor) (d : Direction) (speed : Half) :
    (setMotorSpeed cfg m d speed).length = 2 := rfl
@[simp] theorem allOff_length (cfg : Config) : (allOff cfg).length = 8 := rfl
@[simp] theorem driveAll_length (cfg : Config) (d : Direction) (speed : Half) : (driveAll cfg d speed).length = 8 := rfl
@[simp] theorem pwmsetmWrites_length (cfg : Config) (mask on off : Half) :
    (pwmsetmWrites cfg mask on off).length = (maskChannels mask).length := List.length_map ..

/-- `all_off` writes channel `k` at position `k` (R190). -/
theorem allOff_getElem? {cfg : Config} {k : Nat} (h : k < 8) : (allOff cfg)[k]? = some (channelOff cfg k) := by
  simp [allOff, h]

/-- The antagonist of motor `j` is switched off at position `2j` of `drive_all` (R192). -/
theorem driveAll_even {cfg : Config} {d : Direction} {speed : Half} {j : Nat} {m : Motor} (h : driveOrder[j]? = some m) :
    (driveAll cfg d speed)[2 * j]? = some (antagonistOff cfg m d) := by
  match j with
  | 0 => cases h; rfl
  | 1 => cases h; rfl
  | 2 => cases h; rfl
  | 3 => cases h; rfl
  | j + 4 => simp [driveOrder] at h

/-- Motor `j` is driven at position `2j + 1` of `drive_all` (R192). -/
theorem driveAll_odd {cfg : Config} {d : Direction} {speed : Half} {j : Nat} {m : Motor} (h : driveOrder[j]? = some m) :
    (driveAll cfg d speed)[2 * j + 1]? = some (motorActive cfg m d speed) := by
  match j with
  | 0 => cases h; rfl
  | 1 => cases h; rfl
  | 2 => cases h; rfl
  | 3 => cases h; rfl
  | j + 4 => simp [driveOrder] at h

/-- The channels `PWMSETM` writes are those of its mask's set bits (R176). -/
theorem mem_maskChannels {mask : Half} {ch : Nat} : ch ∈ maskChannels mask ↔ ch < 16 ∧ mask.getLsbD ch = true := by
  simp [maskChannels, Config.pwmNch]

/-- They are in ascending order (R176). -/
theorem maskChannels_ascending (mask : Half) : (maskChannels mask).Pairwise (· < ·) :=
  List.pairwise_lt_range.filter _

/-- An empty mask selects none (R176). -/
theorem maskChannels_zero : maskChannels 0 = [] := by decide

/-- No mask selects more than sixteen. -/
theorem maskChannels_length_le (mask : Half) : (maskChannels mask).length ≤ 16 :=
  le_of_le_of_eq (List.length_filter_le ..) (by simp [Config.pwmNch])

/-! ## A channel write says its channel and its pair -/

/-- The four value bytes determine the pair (R172). -/
theorem pwmBytes_inj {on off on' off' : Half} (h : pwmBytes on off = pwmBytes on' off') : on = on' ∧ off = off' := by
  have key : ∀ v v' : Half, v.low = v'.low → v.high = v'.high → v = v' := by
    intro v v' hl hh
    have hl' := congrArg BitVec.toNat hl
    have hh' := congrArg BitVec.toNat hh
    simp only [Half.low, Half.high, BitVec.extractLsb'_toNat] at hl' hh'
    apply BitVec.eq_of_toNat_eq
    have := v.isLt; have := v'.isLt
    simp only [Nat.shiftRight_eq_div_pow] at hl' hh'
    omega
  simp only [pwmBytes, List.cons.injEq, and_true] at h
  exact ⟨key _ _ h.1 h.2.1, key _ _ h.2.2.1 h.2.2.2⟩

/-- Different channels have different base registers (R59). -/
theorem pwmBase_inj {a b : Nat} (ha : a < 16) (hb : b < 16) (h : pwmBase a = pwmBase b) : a = b := by
  have := congrArg BitVec.toNat h
  simp only [pwmBase, Config.pwmChBase, BitVec.toNat_ofNat] at this
  omega

/-- A channel write determines its channel and its pair. -/
theorem setPwm_inj {cfg : Config} {a b : Nat} {on off on' off' : Half} (ha : a < 16) (hb : b < 16)
    (h : setPwm cfg a on off = setPwm cfg b on' off') : a = b ∧ on = on' ∧ off = off' := by
  simp only [setPwm, writeRegister, Transaction.write.injEq, List.cons.injEq, true_and] at h
  exact ⟨pwmBase_inj ha hb h.1, pwmBytes_inj h.2⟩

/-- `CH_MAP` gives different pairs different channels (R186). -/
theorem chan_inj {t : ChMap} (ht : t.wf = true) {m m' : Motor} {d d' : Direction} (h : t.chan m d = t.chan m' d') :
    m = m' ∧ d = d' := by
  simp only [ChMap.wf, decide_eq_true_eq, ChMap.entries, List.nodup_cons, List.mem_cons, List.not_mem_nil, or_false,
    not_or] at ht
  obtain ⟨⟨a1, a2, a3, a4, a5, a6, a7⟩, ⟨b1, b2, b3, b4, b5, b6⟩, ⟨c1, c2, c3, c4, c5⟩, ⟨d1, d2, d3, d4⟩, ⟨e1, e2, e3⟩,
    ⟨f1, f2⟩, g1, -⟩ := ht
  cases m <;> cases d <;> cases m' <;> cases d' <;> simp only [ChMap.chan] at h <;>
    first | exact ⟨rfl, rfl⟩ | (exfalso; first | exact absurd h ‹_› | exact absurd h.symm ‹_›)

end Sys2Proof.Machine
end

