-- ==== Sys2Proof/Laws/State.lean ====
section
/-! SUPPORT. One lemma for each field of the state and each shared update of it, true by unfolding, so that no later proof unfolds a
record update. -/

namespace Sys2Proof.Machine

/-! ## `respond` (R16) -/

@[simp] theorem respond_cfg (st : Status) (r0 r1 : Word) (s : State) : (respond st r0 r1 s).cfg = s.cfg := rfl
@[simp] theorem respond_tick (st : Status) (r0 r1 : Word) (s : State) : (respond st r0 r1 s).tick = s.tick := rfl
@[simp] theorem respond_tmrEn (st : Status) (r0 r1 : Word) (s : State) : (respond st r0 r1 s).tmrEn = s.tmrEn := rfl
@[simp] theorem respond_tickPend (st : Status) (r0 r1 : Word) (s : State) : (respond st r0 r1 s).tickPend = s.tickPend := rfl
@[simp] theorem respond_dly (st : Status) (r0 r1 : Word) (s : State) : (respond st r0 r1 s).dly = s.dly := rfl
@[simp] theorem respond_ivl (st : Status) (r0 r1 : Word) (s : State) : (respond st r0 r1 s).ivl = s.ivl := rfl
@[simp] theorem respond_win (st : Status) (r0 r1 : Word) (s : State) : (respond st r0 r1 s).win = s.win := rfl
@[simp] theorem respond_ccDir (st : Status) (r0 r1 : Word) (s : State) : (respond st r0 r1 s).ccDir = s.ccDir := rfl
@[simp] theorem respond_ccLive (st : Status) (r0 r1 : Word) (s : State) : (respond st r0 r1 s).ccLive = s.ccLive := rfl
@[simp] theorem respond_ccSettle (st : Status) (r0 r1 : Word) (s : State) : (respond st r0 r1 s).ccSettle = s.ccSettle := rfl
@[simp] theorem respond_sticky (st : Status) (r0 r1 : Word) (s : State) : (respond st r0 r1 s).sticky = s.sticky := rfl
@[simp] theorem respond_cmd (st : Status) (r0 r1 : Word) (s : State) : (respond st r0 r1 s).cmd = s.cmd := rfl
@[simp] theorem respond_arg0 (st : Status) (r0 r1 : Word) (s : State) : (respond st r0 r1 s).arg0 = s.arg0 := rfl
@[simp] theorem respond_arg1 (st : Status) (r0 r1 : Word) (s : State) : (respond st r0 r1 s).arg1 = s.arg1 := rfl
@[simp] theorem respond_pos (st : Status) (r0 r1 : Word) (s : State) : (respond st r0 r1 s).pos = .idle := rfl
@[simp] theorem respond_resp (st : Status) (r0 r1 : Word) (s : State) : (respond st r0 r1 s).resp = ⟨st, r0, r1⟩ := rfl
@[simp] theorem respond_respValid (st : Status) (r0 r1 : Word) (s : State) : (respond st r0 r1 s).respValid = true := rfl
@[simp] theorem respond_bus (st : Status) (r0 r1 : Word) (s : State) : (respond st r0 r1 s).bus = s.bus := rfl
@[simp] theorem respond_inputs (st : Status) (r0 r1 : Word) (s : State) : (respond st r0 r1 s).inputs = s.inputs := rfl
@[simp] theorem respond_history (st : Status) (r0 r1 : Word) (s : State) : (respond st r0 r1 s).history = s.history := rfl

/-! ## `raise` (R243) -/

@[simp] theorem raiseStatus_cfg (st : Status) (info r1 : Word) (s : State) : (raiseStatus st info r1 s).cfg = s.cfg := rfl
@[simp] theorem raiseStatus_tick (st : Status) (info r1 : Word) (s : State) : (raiseStatus st info r1 s).tick = s.tick := rfl
@[simp] theorem raiseStatus_tmrEn (st : Status) (info r1 : Word) (s : State) : (raiseStatus st info r1 s).tmrEn = s.tmrEn := rfl
@[simp] theorem raiseStatus_tickPend (st : Status) (info r1 : Word) (s : State) : (raiseStatus st info r1 s).tickPend = s.tickPend := rfl
@[simp] theorem raiseStatus_dly (st : Status) (info r1 : Word) (s : State) : (raiseStatus st info r1 s).dly = s.dly := rfl
@[simp] theorem raiseStatus_ivl (st : Status) (info r1 : Word) (s : State) : (raiseStatus st info r1 s).ivl = s.ivl := rfl
@[simp] theorem raiseStatus_win (st : Status) (info r1 : Word) (s : State) : (raiseStatus st info r1 s).win = s.win := rfl
@[simp] theorem raiseStatus_ccDir (st : Status) (info r1 : Word) (s : State) : (raiseStatus st info r1 s).ccDir = s.ccDir := rfl
@[simp] theorem raiseStatus_ccLive (st : Status) (info r1 : Word) (s : State) : (raiseStatus st info r1 s).ccLive = s.ccLive := rfl
@[simp] theorem raiseStatus_ccSettle (st : Status) (info r1 : Word) (s : State) : (raiseStatus st info r1 s).ccSettle = s.ccSettle := rfl
@[simp] theorem raiseStatus_sticky (st : Status) (info r1 : Word) (s : State) : (raiseStatus st info r1 s).sticky = setSticky st s.sticky := rfl
@[simp] theorem raiseStatus_cmd (st : Status) (info r1 : Word) (s : State) : (raiseStatus st info r1 s).cmd = s.cmd := rfl
@[simp] theorem raiseStatus_arg0 (st : Status) (info r1 : Word) (s : State) : (raiseStatus st info r1 s).arg0 = s.arg0 := rfl
@[simp] theorem raiseStatus_arg1 (st : Status) (info r1 : Word) (s : State) : (raiseStatus st info r1 s).arg1 = s.arg1 := rfl
@[simp] theorem raiseStatus_pos (st : Status) (info r1 : Word) (s : State) : (raiseStatus st info r1 s).pos = .idle := rfl
@[simp] theorem raiseStatus_resp (st : Status) (info r1 : Word) (s : State) : (raiseStatus st info r1 s).resp = ⟨st, info, r1⟩ := rfl
@[simp] theorem raiseStatus_respValid (st : Status) (info r1 : Word) (s : State) : (raiseStatus st info r1 s).respValid = true := rfl
@[simp] theorem raiseStatus_bus (st : Status) (info r1 : Word) (s : State) : (raiseStatus st info r1 s).bus = s.bus := rfl
@[simp] theorem raiseStatus_inputs (st : Status) (info r1 : Word) (s : State) : (raiseStatus st info r1 s).inputs = s.inputs := rfl
@[simp] theorem raiseStatus_history (st : Status) (info r1 : Word) (s : State) : (raiseStatus st info r1 s).history = s.history := rfl

/-! ## `pos <- k` (R40) -/

@[simp] theorem goto_cfg (k : Nat) (s : State) : (goto k s).cfg = s.cfg := rfl
@[simp] theorem goto_tick (k : Nat) (s : State) : (goto k s).tick = s.tick := rfl
@[simp] theorem goto_tmrEn (k : Nat) (s : State) : (goto k s).tmrEn = s.tmrEn := rfl
@[simp] theorem goto_tickPend (k : Nat) (s : State) : (goto k s).tickPend = s.tickPend := rfl
@[simp] theorem goto_dly (k : Nat) (s : State) : (goto k s).dly = s.dly := rfl
@[simp] theorem goto_ivl (k : Nat) (s : State) : (goto k s).ivl = s.ivl := rfl
@[simp] theorem goto_win (k : Nat) (s : State) : (goto k s).win = s.win := rfl
@[simp] theorem goto_ccDir (k : Nat) (s : State) : (goto k s).ccDir = s.ccDir := rfl
@[simp] theorem goto_ccLive (k : Nat) (s : State) : (goto k s).ccLive = s.ccLive := rfl
@[simp] theorem goto_ccSettle (k : Nat) (s : State) : (goto k s).ccSettle = s.ccSettle := rfl
@[simp] theorem goto_sticky (k : Nat) (s : State) : (goto k s).sticky = s.sticky := rfl
@[simp] theorem goto_cmd (k : Nat) (s : State) : (goto k s).cmd = s.cmd := rfl
@[simp] theorem goto_arg0 (k : Nat) (s : State) : (goto k s).arg0 = s.arg0 := rfl
@[simp] theorem goto_arg1 (k : Nat) (s : State) : (goto k s).arg1 = s.arg1 := rfl
@[simp] theorem goto_pos (k : Nat) (s : State) : (goto k s).pos = .busy k := rfl
@[simp] theorem goto_resp (k : Nat) (s : State) : (goto k s).resp = s.resp := rfl
@[simp] theorem goto_respValid (k : Nat) (s : State) : (goto k s).respValid = s.respValid := rfl
@[simp] theorem goto_bus (k : Nat) (s : State) : (goto k s).bus = s.bus := rfl
@[simp] theorem goto_inputs (k : Nat) (s : State) : (goto k s).inputs = s.inputs := rfl
@[simp] theorem goto_history (k : Nat) (s : State) : (goto k s).history = s.history := rfl

/-! ## accepting a request (R32) -/

@[simp] theorem latch_cfg (r : Request) (s : State) : (latch r s).cfg = s.cfg := rfl
@[simp] theorem latch_tick (r : Request) (s : State) : (latch r s).tick = s.tick := rfl
@[simp] theorem latch_tmrEn (r : Request) (s : State) : (latch r s).tmrEn = s.tmrEn := rfl
@[simp] theorem latch_tickPend (r : Request) (s : State) : (latch r s).tickPend = s.tickPend := rfl
@[simp] theorem latch_dly (r : Request) (s : State) : (latch r s).dly = s.dly := rfl
@[simp] theorem latch_ivl (r : Request) (s : State) : (latch r s).ivl = s.ivl := rfl
@[simp] theorem latch_win (r : Request) (s : State) : (latch r s).win = s.win := rfl
@[simp] theorem latch_ccDir (r : Request) (s : State) : (latch r s).ccDir = s.ccDir := rfl
@[simp] theorem latch_ccLive (r : Request) (s : State) : (latch r s).ccLive = s.ccLive := rfl
@[simp] theorem latch_ccSettle (r : Request) (s : State) : (latch r s).ccSettle = s.ccSettle := rfl
@[simp] theorem latch_sticky (r : Request) (s : State) : (latch r s).sticky = s.sticky := rfl
@[simp] theorem latch_cmd (r : Request) (s : State) : (latch r s).cmd = r.cmd := rfl
@[simp] theorem latch_arg0 (r : Request) (s : State) : (latch r s).arg0 = r.arg0 := rfl
@[simp] theorem latch_arg1 (r : Request) (s : State) : (latch r s).arg1 = r.arg1 := rfl
@[simp] theorem latch_pos (r : Request) (s : State) : (latch r s).pos = .busy 0 := rfl
@[simp] theorem latch_resp (r : Request) (s : State) : (latch r s).resp = s.resp := rfl
@[simp] theorem latch_respValid (r : Request) (s : State) : (latch r s).respValid = false := rfl
@[simp] theorem latch_bus (r : Request) (s : State) : (latch r s).bus = s.bus := rfl
@[simp] theorem latch_inputs (r : Request) (s : State) : (latch r s).inputs = s.inputs := rfl
@[simp] theorem latch_history (r : Request) (s : State) : (latch r s).history = s.history := rfl

/-! ## the timer event (R110) -/

@[simp] theorem timerEvent_cfg (s : State) : (timerEvent s).cfg = s.cfg := rfl
@[simp] theorem timerEvent_tick (s : State) : (timerEvent s).tick = s.tick := rfl
@[simp] theorem timerEvent_tmrEn (s : State) : (timerEvent s).tmrEn = s.tmrEn := rfl
@[simp] theorem timerEvent_tickPend (s : State) : (timerEvent s).tickPend = (s.tickPend || s.tmrEn) := rfl
@[simp] theorem timerEvent_dly (s : State) : (timerEvent s).dly = s.dly := rfl
@[simp] theorem timerEvent_ivl (s : State) : (timerEvent s).ivl = s.ivl := rfl
@[simp] theorem timerEvent_win (s : State) : (timerEvent s).win = s.win := rfl
@[simp] theorem timerEvent_ccDir (s : State) : (timerEvent s).ccDir = s.ccDir := rfl
@[simp] theorem timerEvent_ccLive (s : State) : (timerEvent s).ccLive = s.ccLive := rfl
@[simp] theorem timerEvent_ccSettle (s : State) : (timerEvent s).ccSettle = s.ccSettle := rfl
@[simp] theorem timerEvent_sticky (s : State) : (timerEvent s).sticky = s.sticky := rfl
@[simp] theorem timerEvent_cmd (s : State) : (timerEvent s).cmd = s.cmd := rfl
@[simp] theorem timerEvent_arg0 (s : State) : (timerEvent s).arg0 = s.arg0 := rfl
@[simp] theorem timerEvent_arg1 (s : State) : (timerEvent s).arg1 = s.arg1 := rfl
@[simp] theorem timerEvent_pos (s : State) : (timerEvent s).pos = s.pos := rfl
@[simp] theorem timerEvent_resp (s : State) : (timerEvent s).resp = s.resp := rfl
@[simp] theorem timerEvent_respValid (s : State) : (timerEvent s).respValid = s.respValid := rfl
@[simp] theorem timerEvent_bus (s : State) : (timerEvent s).bus = s.bus := rfl
@[simp] theorem timerEvent_inputs (s : State) : (timerEvent s).inputs = s.inputs := rfl
@[simp] theorem timerEvent_history (s : State) : (timerEvent s).history = s.history := rfl

/-! ## reset (R270) -/

@[simp] theorem applyReset_cfg (s : State) : (applyReset s).cfg = s.cfg := rfl
@[simp] theorem applyReset_tick (s : State) : (applyReset s).tick = 0 := rfl
@[simp] theorem applyReset_tmrEn (s : State) : (applyReset s).tmrEn = false := rfl
@[simp] theorem applyReset_tickPend (s : State) : (applyReset s).tickPend = false := rfl
@[simp] theorem applyReset_dly (s : State) : (applyReset s).dly = List.replicate s.dly.length DelaySlot.unarmed := rfl
@[simp] theorem applyReset_ivl (s : State) : (applyReset s).ivl = List.replicate s.ivl.length IntervalSlot.unarmed := rfl
@[simp] theorem applyReset_win (s : State) : (applyReset s).win = Window.zero := rfl
@[simp] theorem applyReset_ccDir (s : State) : (applyReset s).ccDir = .forward := rfl
@[simp] theorem applyReset_ccLive (s : State) : (applyReset s).ccLive = Sample.zero := rfl
@[simp] theorem applyReset_ccSettle (s : State) : (applyReset s).ccSettle = 0 := rfl
@[simp] theorem applyReset_sticky (s : State) : (applyReset s).sticky = 0 := rfl
@[simp] theorem applyReset_cmd (s : State) : (applyReset s).cmd = 0 := rfl
@[simp] theorem applyReset_arg0 (s : State) : (applyReset s).arg0 = 0 := rfl
@[simp] theorem applyReset_arg1 (s : State) : (applyReset s).arg1 = 0 := rfl
@[simp] theorem applyReset_pos (s : State) : (applyReset s).pos = .idle := rfl
@[simp] theorem applyReset_resp (s : State) : (applyReset s).resp = ⟨.ok, 0, 0⟩ := rfl
@[simp] theorem applyReset_respValid (s : State) : (applyReset s).respValid = false := rfl
@[simp] theorem applyReset_bus (s : State) : (applyReset s).bus = .free := rfl
@[simp] theorem applyReset_inputs (s : State) : (applyReset s).inputs = s.inputs := rfl
@[simp] theorem applyReset_history (s : State) : (applyReset s).history = abandoned s ++ s.history := rfl

/-! ## the tick handler (R111) -/

@[simp] theorem tickHandler_cfg (s : State) : (tickHandler s).cfg = s.cfg := by unfold tickHandler; split <;> rfl
@[simp] theorem tickHandler_tmrEn (s : State) : (tickHandler s).tmrEn = s.tmrEn := by unfold tickHandler; split <;> rfl
@[simp] theorem tickHandler_dly (s : State) : (tickHandler s).dly = s.dly := by unfold tickHandler; split <;> rfl
@[simp] theorem tickHandler_ivl (s : State) : (tickHandler s).ivl = s.ivl := by unfold tickHandler; split <;> rfl
@[simp] theorem tickHandler_win (s : State) : (tickHandler s).win = s.win := by unfold tickHandler; split <;> rfl
@[simp] theorem tickHandler_ccDir (s : State) : (tickHandler s).ccDir = s.ccDir := by unfold tickHandler; split <;> rfl
@[simp] theorem tickHandler_ccLive (s : State) : (tickHandler s).ccLive = s.ccLive := by unfold tickHandler; split <;> rfl
@[simp] theorem tickHandler_ccSettle (s : State) : (tickHandler s).ccSettle = s.ccSettle := by unfold tickHandler; split <;> rfl
@[simp] theorem tickHandler_sticky (s : State) : (tickHandler s).sticky = s.sticky := by unfold tickHandler; split <;> rfl
@[simp] theorem tickHandler_cmd (s : State) : (tickHandler s).cmd = s.cmd := by unfold tickHandler; split <;> rfl
@[simp] theorem tickHandler_arg0 (s : State) : (tickHandler s).arg0 = s.arg0 := by unfold tickHandler; split <;> rfl
@[simp] theorem tickHandler_arg1 (s : State) : (tickHandler s).arg1 = s.arg1 := by unfold tickHandler; split <;> rfl
@[simp] theorem tickHandler_pos (s : State) : (tickHandler s).pos = s.pos := by unfold tickHandler; split <;> rfl
@[simp] theorem tickHandler_resp (s : State) : (tickHandler s).resp = s.resp := by unfold tickHandler; split <;> rfl
@[simp] theorem tickHandler_respValid (s : State) : (tickHandler s).respValid = s.respValid := by unfold tickHandler; split <;> rfl
@[simp] theorem tickHandler_bus (s : State) : (tickHandler s).bus = s.bus := by unfold tickHandler; split <;> rfl
@[simp] theorem tickHandler_inputs (s : State) : (tickHandler s).inputs = s.inputs := by unfold tickHandler; split <;> rfl
@[simp] theorem tickHandler_history (s : State) : (tickHandler s).history = s.history := by unfold tickHandler; split <;> rfl

/-- The handler adds one tick where one was pending (R111). -/
theorem tickHandler_tick (s : State) : (tickHandler s).tick = if s.tickPend then s.tick + 1 else s.tick := by
  unfold tickHandler; split <;> rfl

/-- After the handler no tick is pending (R111). -/
@[simp] theorem tickHandler_tickPend (s : State) : (tickHandler s).tickPend = false := by
  unfold tickHandler; split <;> simp_all

/-- `latched` reads the three command registers only. -/
theorem latched_eq (s : State) : latched s = ⟨s.cmd, s.arg0, s.arg1⟩ := rfl

end Sys2Proof.Machine
end

