-- ==== Sys2Proof/Laws/Ops.lean ====
section
/-! SUPPORT. For each shared operation, what it can do, said once: the bus port, a sequence of transactions, the steps of the agents,
the step of the machine. -/

namespace Sys2Proof.Machine

/-! ## One transaction (20_memory.md R53, R54) -/

/-- On a free port SEQ issues the transaction. -/
theorem transact_issue {s : State} (tx : Transaction) (k : BusAnswer → State → State) (h : s.bus = .free) :
    transact tx k s = { s with bus := .outstanding tx } := by simp [transact, h]

/-- While the transaction is unanswered SEQ holds. -/
theorem transact_hold {s : State} {tx' : Transaction} (tx : Transaction) (k : BusAnswer → State → State)
    (h : s.bus = .outstanding tx') : transact tx k s = s := by simp [transact, h]

/-- SEQ takes the answer and goes on with a free port. -/
theorem transact_answered {s : State} {tx' : Transaction} {ans : BusAnswer} (tx : Transaction)
    (k : BusAnswer → State → State) (h : s.bus = .answered tx' ans) :
    transact tx k s = k ans { s with bus := .free } := by simp [transact, h]

/-- Everything a transaction's step can do. -/
theorem transact_cases (tx : Transaction) (k : BusAnswer → State → State) (s : State) :
    (s.bus = .free ∧ transact tx k s = { s with bus := .outstanding tx }) ∨
    (∃ tx', s.bus = .outstanding tx' ∧ transact tx k s = s) ∨
    (∃ tx' ans, s.bus = .answered tx' ans ∧ transact tx k s = k ans { s with bus := .free }) := by
  cases h : s.bus with
  | free => exact .inl ⟨rfl, transact_issue tx k h⟩
  | outstanding tx' => exact .inr (.inl ⟨tx', rfl, transact_hold tx k h⟩)
  | answered tx' ans => exact .inr (.inr ⟨tx', ans, rfl, transact_answered tx k h⟩)

/-! ## `try` of one transaction (00_scope.md R16) -/

theorem tryTransaction_issue {s : State} (tx : Transaction) (k : List Byte → State → State) (h : s.bus = .free) :
    tryTransaction tx k s = { s with bus := .outstanding tx } := transact_issue tx _ h

theorem tryTransaction_hold {s : State} {tx' : Transaction} (tx : Transaction) (k : List Byte → State → State)
    (h : s.bus = .outstanding tx') : tryTransaction tx k s = s := transact_hold tx _ h

theorem tryTransaction_ok {s : State} {tx' : Transaction} {r : List Byte} (tx : Transaction)
    (k : List Byte → State → State) (h : s.bus = .answered tx' (.ok r)) :
    tryTransaction tx k s = k r { s with bus := .free } := transact_answered tx _ h

theorem tryTransaction_err {s : State} {tx' : Transaction} {e : Word} (tx : Transaction)
    (k : List Byte → State → State) (h : s.bus = .answered tx' (.err e)) :
    tryTransaction tx k s = raiseStatus .busError e 0 { s with bus := .free } := transact_answered tx _ h

/-! ## A sequence of transactions (00_scope.md R17, 20_memory.md R67) -/

section
variable {s : State} {base i : Nat} {txs : List Transaction} {done : State → State} {fail : Word → Nat → State → State}

/-- With no transaction left the sequence is done (the empty mask of R176). -/
theorem writeSequence_none (hp : s.pos.index - base = i) (h : txs[i]? = none) :
    writeSequence base txs done fail s = done s := by simp [writeSequence, hp, h]

/-- The `i`-th position issues the `i`-th transaction. -/
theorem writeSequence_issue {tx : Transaction} (hp : s.pos.index - base = i) (h : txs[i]? = some tx)
    (hb : s.bus = .free) : writeSequence base txs done fail s = { s with bus := .outstanding tx } := by
  simp [writeSequence, hp, h, transact, hb]

/-- It holds while the transaction is unanswered. -/
theorem writeSequence_hold {tx tx' : Transaction} (hp : s.pos.index - base = i) (h : txs[i]? = some tx)
    (hb : s.bus = .outstanding tx') : writeSequence base txs done fail s = s := by
  simp [writeSequence, hp, h, transact, hb]

/-- An `Ok` before the last goes on to the next position. -/
theorem writeSequence_ok {tx' : Transaction} {r : List Byte} (hp : s.pos.index - base = i) (h : i + 1 < txs.length)
    (hb : s.bus = .answered tx' (.ok r)) :
    writeSequence base txs done fail s = goto (base + i + 1) { s with bus := .free } := by
  have hi : txs[i]? = some txs[i] := List.getElem?_eq_getElem (by omega)
  simp [writeSequence, hp, hi, transact, hb, h]

/-- The last `Ok` is the sequence's end. -/
theorem writeSequence_last {tx' : Transaction} {r : List Byte} (hp : s.pos.index - base = i) (h : i + 1 = txs.length)
    (hb : s.bus = .answered tx' (.ok r)) :
    writeSequence base txs done fail s = done { s with bus := .free } := by
  have hi : txs[i]? = some txs[i] := List.getElem?_eq_getElem (by omega)
  simp [writeSequence, hp, hi, transact, hb, h]

/-- The first `Err(e)` stops it, with the number of transactions completed before. -/
theorem writeSequence_err {tx' : Transaction} {e : Word} (hp : s.pos.index - base = i) (h : i < txs.length)
    (hb : s.bus = .answered tx' (.err e)) :
    writeSequence base txs done fail s = fail e i { s with bus := .free } := by
  have hi : txs[i]? = some txs[i] := List.getElem?_eq_getElem h
  simp [writeSequence, hp, hi, transact, hb]

end

/-! ## The comparison (41_delay_interval.md R120) -/

/-- `ready` in terms of the wrapping difference. -/
theorem ready_iff {target t : Word} : ready target t = true ↔ (t - target).toNat < 2 ^ 31 := by
  rw [ready, decide_eq_true_iff]

/-- `ready` is false in the other half of the range. -/
theorem not_ready_iff {target t : Word} : ready target t = false ↔ 2 ^ 31 ≤ (t - target).toNat := by
  rw [ready, decide_eq_false_iff_not, Nat.not_lt]

/-! ## The steps of the agents -/

/-- What BUS's step does where it answers a next state (R53 to R56; log 14). -/
theorem busStep_next {ans : BusAnswer} {s t : State} (h : busStep ans s = .next t) :
    (∃ tx, s.bus = .outstanding tx ∧ ans.fits tx = true ∧
      t = { s with bus := .answered tx ans,
                   history := .transaction (opField s.cmd) tx (some ans) :: s.history }) ∨
    ((∀ tx, s.bus ≠ .outstanding tx) ∧ t = s) := by
  unfold busStep at h
  cases hb : s.bus with
  | free => simp [hb] at h; exact .inr ⟨by simp, h.symm⟩
  | answered tx a => simp [hb] at h; exact .inr ⟨by simp, h.symm⟩
  | outstanding tx =>
    simp only [hb] at h
    split at h
    · exact .inl ⟨tx, rfl, ‹_›, by simpa using h.symm⟩
    · cases h

/-- BUS answers the outstanding transaction (R53, R54, R43). -/
theorem busStep_answer {ans : BusAnswer} {s : State} {tx : Transaction} (hb : s.bus = .outstanding tx)
    (hf : ans.fits tx = true) : busStep ans s =
      .next { s with bus := .answered tx ans, history := .transaction (opField s.cmd) tx (some ans) :: s.history } := by
  simp [busStep, hb, hf]

/-- An answer that does not fit the outstanding transaction stops the model (log 14). -/
theorem busStep_malformed {ans : BusAnswer} {s : State} {tx : Transaction} (hb : s.bus = .outstanding tx)
    (hf : ans.fits tx = false) : busStep ans s = .fault .malformedAnswer := by simp [busStep, hb, hf]

/-- Where no transaction waits for an answer, BUS's step has no effect (log 14). -/
theorem busStep_none {ans : BusAnswer} {s : State} (hb : ∀ tx, s.bus ≠ .outstanding tx) : busStep ans s = .next s := by
  cases h : s.bus with
  | free => simp [busStep, h]
  | answered tx a => simp [busStep, h]
  | outstanding tx => exact absurd h (hb tx)

/-- The late answer to a transaction that reset abandoned is discarded (R271). -/
@[simp] theorem lateAnswer_eq (ans : BusAnswer) (s : State) : lateAnswer ans s = s := rfl

/-- A request while a command is in progress is not accepted (R261). -/
theorem acceptRequest_busy {s : State} {k : Nat} (r : Request) (h : s.pos = .busy k) : acceptRequest r s = s := by
  simp [acceptRequest, h]

/-- A request while SEQ is idle is latched (R40). -/
theorem acceptRequest_idle {s : State} (r : Request) (h : s.pos = .idle) : acceptRequest r s = latch r s := by
  simp [acceptRequest, h]

/-- Everything SEQ's step can do (R40, R89). -/
theorem seqStep_cases (s : State) :
    (s.pos = .idle ∧ seqStep s = .next s) ∨
    (∃ k i, s.pos = .busy k ∧ decode (latched s) = .ok i ∧ seqStep s = exec i s) ∨
    (∃ k e, s.pos = .busy k ∧ decode (latched s) = .error e ∧ seqStep s = .next (raiseStatus .illegal 0 0 s)) := by
  unfold seqStep
  cases hp : s.pos with
  | idle => exact .inl ⟨rfl, rfl⟩
  | busy k =>
    cases hd : decode (latched s) with
    | ok i => exact .inr (.inl ⟨k, i, rfl, rfl, rfl⟩)
    | error e => exact .inr (.inr ⟨k, e, rfl, rfl, rfl⟩)

/-- With an empty schedule SEQ moves (log 6). -/
theorem step_default {s : State} (h : s.inputs = []) : step s = seqStep s := by simp [step, scheduledStep, h]

/-- The schedule's next entry moves (R10, R41). -/
theorem step_scheduled {s : State} {i : Input} {rest : List Input} (h : s.inputs = i :: rest) :
    step s = agentStep i { s with inputs := rest } := by simp [step, scheduledStep, h]

/-- Everything a step can do, by the agent that moves. -/
theorem step_cases (s : State) :
    (s.inputs = [] ∧ step s = seqStep s) ∨
    ∃ i rest, s.inputs = i :: rest ∧ step s = agentStep i { s with inputs := rest } := by
  cases h : s.inputs with
  | nil => exact .inl ⟨rfl, step_default h⟩
  | cons i rest => exact .inr ⟨i, rest, rfl, step_scheduled h⟩

end Sys2Proof.Machine
end

