-- ==== Sys2Proof/Laws/Commands.lean ====
section
/-! SUPPORT. Everything a command's step can do, said once: at a position with a transaction it is that transaction with what follows
its answer (`exec_transact`); at a position without one it answers, raises or goes on (`exec_local`). -/

namespace Sys2Proof.Machine

/-! ## The two operations over the bus port as one transaction -/

/-- A sequence at a position with a transaction is that transaction. -/
theorem writeSequence_eq_transact {s : State} {base i : Nat} {txs : List Transaction} {done : State → State}
    {fail : Word → Nat → State → State} {tx : Transaction} (hp : s.pos.index - base = i) (h : txs[i]? = some tx) :
    writeSequence base txs done fail s =
      transact tx (fun ans s' =>
        match ans with
        | .ok _ => if i + 1 < txs.length then goto (base + i + 1) s' else done s'
        | .err e => fail e i s') s := by
  subst hp; simp only [writeSequence, h] <;> rfl

/-- The position number of a busy sequencer. -/
@[simp] theorem index_busy (k : Nat) : (Pos.busy k).index = k := rfl

/-- What follows the answer of a transaction of command `i` at position `k`. -/
structure Follows (i : Instr) (k : Nat) (cont : BusAnswer → State → State) : Prop where
  /-- `Err(e)` ends the command (R245, R91). -/
  err : ∀ e s, cont (.err e) s =
    raiseStatus .busError e (if i.mnemonic ∈ ["PWMSETM", "MOTOFF", "MOTALL"] then BitVec.ofNat 32 k else 0) s
  /-- `Ok` goes on to the next position (`CCCYCLE` keeps its sample) or is the command's last answer. -/
  ok : (k + 1 < positions i ∧ ∀ r s, ∃ live, cont (.ok r) s = goto (k + 1) { s with ccLive := live } ∧
          (live ≠ s.ccLive → isCycle i = true ∧ k = 0)) ∨
       (isCycle i = false ∧ ∀ r s, ∃ r0 r1, cont (.ok r) s = respond .ok r0 r1 s)

/-- What follows the only transaction of a command. -/
theorem follows_try {i : Instr} {k : Nat} {f : List Byte → State → State}
    (hm : i.mnemonic ∉ ["PWMSETM", "MOTOFF", "MOTALL"]) (hc : isCycle i = false)
    (hf : ∀ r s, ∃ r0 r1, f r s = respond .ok r0 r1 s) :
    Follows i k (fun ans s' => match ans with | .ok r => f r s' | .err e => raiseStatus .busError e 0 s') where
  err e s := by rw [if_neg hm]
  ok := .inr ⟨hc, hf⟩

/-- What follows a transaction of a sequence that begins at position 0. -/
theorem follows_sequence {i : Instr} {k : Nat} {txs : List Transaction} {done : State → State}
    {fail : Word → Nat → State → State} (hl : positions i = max 1 txs.length)
    (hc : isCycle i = false) (hd : ∀ s, ∃ r0 r1, done s = respond .ok r0 r1 s)
    (hf : ∀ e s, fail e k s =
      raiseStatus .busError e (if i.mnemonic ∈ ["PWMSETM", "MOTOFF", "MOTALL"] then BitVec.ofNat 32 k else 0) s) :
    Follows i k (fun ans s' => match ans with
      | .ok _ => if k + 1 < txs.length then goto (0 + k + 1) s' else done s'
      | .err e => fail e k s') where
  err := hf
  ok := by
    by_cases h : k + 1 < txs.length
    · exact .inl ⟨by omega, fun r s => ⟨s.ccLive, by simp [h], by simp⟩⟩
    · exact .inr ⟨hc, fun r s => by simpa [h] using hd s⟩

/-- What follows a transaction of the reaction (R227). -/
theorem follows_reaction {i : Instr} {k base j : Nat} {txs : List Transaction} (hi : isCycle i = true)
    (hk : base + j = k) (hl : j < txs.length) (hb : base + txs.length ≤ 21) :
    Follows i k (fun ans s' => match ans with
      | .ok _ => if j + 1 < txs.length then goto (base + j + 1) s' else goto (base + txs.length) s'
      | .err e => busErrorPlain e j s') where
  err e s := by cases i <;> first | (cases hi; done) | rfl
  ok := by
    refine .inl ⟨?_, fun r s => ⟨s.ccLive, ?_, by simp⟩⟩
    · have : positions i = 23 := by cases i <;> first | (cases hi; done) | rfl
      omega
    · subst hk
      show (if _ then _ else _) = _
      split
      · rfl
      · rw [show base + txs.length = base + j + 1 by omega]

/-- Where the reaction has a transaction, the cycle is at it (R223, R225). -/
theorem cycleFrom_transact {i : Instr} {s : State} {k : Nat} {tx : Transaction} (hi : isCycle i = true)
    (hp : s.pos = .busy k) (h : reactionTx s.cfg s.ccDir k = some tx) :
    ∃ cont, cycleFrom s = transact tx cont s ∧ Follows i k cont := by
  unfold reactionTx at h
  split_ifs at h with h1 h2 h3 h4
  · refine ⟨_, ?_, follows_reaction (base := 3) (j := k - 3) (txs := allOff s.cfg) hi (by omega) (by simp; omega) (by simp)⟩
    simp only [cycleFrom, hp, index_busy]
    rw [if_neg (by omega), if_neg (by omega), if_pos (by omega)]
    exact writeSequence_eq_transact (by rw [hp]; rfl) h
  · refine ⟨_, ?_, follows_reaction (base := 13) (j := k - 13) (txs := driveAll s.cfg s.ccDir (driveSpeed s.cfg)) hi
      (by omega) (by simp; omega) (by simp)⟩
    simp only [cycleFrom, hp, index_busy]
    rw [if_neg (by omega), if_neg (by omega), if_neg (by omega), if_neg (by omega), if_neg (by omega), if_pos (by omega)]
    exact writeSequence_eq_transact (by rw [hp]; rfl) h

/-- At a position that has a transaction, a command's step is that transaction, with what follows its answer. -/
theorem exec_transact {i : Instr} {k : Nat} {tx : Transaction} {s : State} (hp : s.pos = .busy k)
    (h : commandTx s.cfg s.ccDir k i = some tx) :
    ∃ cont, exec i s = .next (transact tx cont s) ∧ Follows i k cont := by
  have one : ∀ {x : Transaction}, [x][k]? = some tx → x = tx := by intro x hx; cases k <;> simp at hx; exact hx
  have hp0 : s.pos.index - 0 = k := by rw [hp]; rfl
  cases i <;> simp only [commandTx] at h
  all_goals try (solve | cases h)
  case wrreg dev reg n data =>
    split at h
    · rw [← one h]
      exact ⟨_, by simp only [exec, execWrreg]; rw [if_neg (by omega)]; rfl,
        follows_try (by simp [Instr.mnemonic]) rfl fun _ _ => ⟨_, _, rfl⟩⟩
    · cases h
  case rdreg dev reg ai n =>
    split at h
    · rw [← one h]
      exact ⟨_, by simp only [exec, execRdreg]; rw [if_neg (by omega)]; rfl,
        follows_try (by simp [Instr.mnemonic]) rfl fun _ _ => ⟨_, _, rfl⟩⟩
    · cases h
  case accinit rate => rw [← one h]; exact ⟨_, rfl, follows_try (by simp [Instr.mnemonic]) rfl fun _ _ => ⟨_, _, rfl⟩⟩
  case accrd => rw [← one h]; exact ⟨_, rfl, follows_try (by simp [Instr.mnemonic]) rfl fun _ _ => ⟨_, _, rfl⟩⟩
  case magrd => rw [← one h]; exact ⟨_, rfl, follows_try (by simp [Instr.mnemonic]) rfl fun _ _ => ⟨_, _, rfl⟩⟩
  case pwminit => rw [← one h]; exact ⟨_, rfl, follows_try (by simp [Instr.mnemonic]) rfl fun _ _ => ⟨_, _, rfl⟩⟩
  case maginit rate =>
    exact ⟨_, congrArg Host.Outcome.next (writeSequence_eq_transact hp0 h),
      follows_sequence rfl rfl (fun _ => ⟨_, _, rfl⟩) (fun _ _ => rfl)⟩
  case motoff =>
    exact ⟨_, congrArg Host.Outcome.next (writeSequence_eq_transact hp0 h),
      follows_sequence rfl rfl (fun _ => ⟨_, _, rfl⟩) (fun _ _ => rfl)⟩
  case pwmset ch on off =>
    split at h
    · rename_i hr
      rw [← one h]
      have hr' : ¬ (ch > 15 ∨ on > Config.pwmMax ∨ off > Config.pwmMax) := by
        rw [not_or, not_or]
        exact ⟨Nat.not_lt.mpr hr.1, BitVec.not_lt.mpr hr.2.1, BitVec.not_lt.mpr hr.2.2⟩
      exact ⟨_, by simp only [exec, execPwmset]; rw [if_neg hr']; rfl,
        follows_try (by simp [Instr.mnemonic]) rfl fun _ _ => ⟨_, _, rfl⟩⟩
    · cases h
  case pwmsetm mask on off =>
    split at h
    · rename_i hr
      refine ⟨_, ?_, follows_sequence (txs := pwmsetmWrites s.cfg mask on off)
        (done := respond .ok 0 (BitVec.ofNat 32 (pwmsetmWrites s.cfg mask on off).length)) (fail := busErrorCounted) (by simp [positions]) rfl
        (fun _ => ⟨_, _, rfl⟩) (fun _ _ => rfl)⟩
      simp only [exec, execPwmsetm]
      rw [if_neg (by rw [not_or]; exact ⟨BitVec.not_lt.mpr hr.1, BitVec.not_lt.mpr hr.2⟩)]
      exact congrArg Host.Outcome.next (writeSequence_eq_transact hp0 h)
    · cases h
  case motspd m d speed =>
    split at h
    · rename_i hr
      refine ⟨_, ?_, follows_sequence (txs := setMotorSpeed s.cfg m d speed)
        (done := respond .ok 0 0) (fail := busErrorPlain) rfl rfl (fun _ => ⟨_, _, rfl⟩) (fun _ _ => rfl)⟩
      simp only [exec, execMotspd]
      rw [if_neg (BitVec.not_lt.mpr hr)]
      exact congrArg Host.Outcome.next (writeSequence_eq_transact hp0 h)
    · cases h
  case motall d speed =>
    split at h
    · rename_i hr
      refine ⟨_, ?_, follows_sequence (txs := driveAll s.cfg d speed)
        (done := respond .ok 0 8) (fail := busErrorCounted) rfl rfl (fun _ => ⟨_, _, rfl⟩) (fun _ _ => rfl)⟩
      simp only [exec, execMotall]
      rw [if_neg (BitVec.not_lt.mpr hr)]
      exact congrArg Host.Outcome.next (writeSequence_eq_transact hp0 h)
    · cases h
  case cccycle =>
    split at h
    · rename_i h0
      subst h0; cases h
      refine ⟨_, by simp only [exec, execCccycle, hp, index_busy, if_true]; rfl, ⟨fun e s => ?_, .inl ⟨by decide, fun r s => ?_⟩⟩⟩
      · rfl
      · exact ⟨accDecode r, rfl, fun _ => ⟨rfl, rfl⟩⟩
    · rename_i h0
      obtain ⟨cont, h1, h2⟩ := cycleFrom_transact (i := .cccycle) rfl hp h
      exact ⟨cont, by simp only [exec, execCccycle, hp, index_busy, if_neg h0, h1], h2⟩
  case ccstep live =>
    have h0 : k ≠ 0 := by rintro rfl; cases h
    obtain ⟨cont, h1, h2⟩ := cycleFrom_transact (i := .ccstep live) rfl hp h
    exact ⟨cont, by simp only [exec, execCcstep, hp, index_busy, if_neg h0, h1], h2⟩

/-! ## Positions without a transaction -/

/-- What a command that ends without a transaction leaves: idle with a response, and everything but the items such a command may
write as it was. -/
structure EndsAlone (s t : State) : Prop where
  pos : t.pos = .idle
  respValid : t.respValid = true
  bus : t.bus = s.bus
  history : t.history = s.history
  cfg : t.cfg = s.cfg
  inputs : t.inputs = s.inputs
  tick : t.tick = s.tick
  tickPend : t.tickPend = s.tickPend
  tmrEn : s.tmrEn = true → t.tmrEn = true
  cmd : t.cmd = s.cmd
  arg0 : t.arg0 = s.arg0
  arg1 : t.arg1 = s.arg1
  ccDir : t.ccDir = s.ccDir
  ccLive : t.ccLive = s.ccLive
  ccSettle : t.ccSettle = s.ccSettle
  delays : t.nDelay = s.nDelay
  intervals : t.nInterval = s.nInterval
  doneArmed : (∀ d ∈ s.dly, d.done = true → d.armed = true) → ∀ d ∈ t.dly, d.done = true → d.armed = true
  sticky : s.sticky &&& t.sticky = s.sticky

theorem sticky_kept (st : Status) (v : BitVec 5) : v &&& setSticky st v = v := by
  cases st <;> revert v <;> decide

theorem raise_endsAlone (st : Status) (info r1 : Word) (s : State) : EndsAlone s (raiseStatus st info r1 s) := by
  refine ⟨rfl, rfl, rfl, rfl, rfl, rfl, rfl, rfl, id, rfl, rfl, rfl, rfl, rfl, rfl, rfl, rfl, id, sticky_kept st s.sticky⟩

theorem respond_endsAlone (st : Status) (r0 r1 : Word) (s : State) : EndsAlone s (respond st r0 r1 s) :=
  ⟨rfl, rfl, rfl, rfl, rfl, rfl, rfl, rfl, id, rfl, rfl, rfl, rfl, rfl, rfl, rfl, rfl, id, by simp⟩

/-- A command other than the control cycle ends at a position without a transaction. -/
theorem exec_local {i : Instr} {k : Nat} {s t : State} (hp : s.pos = .busy k) (hk : k < positions i)
    (hc : isCycle i = false) (h : commandTx s.cfg s.ccDir k i = none) (ht : exec i s = .next t) : EndsAlone s t := by
  have hp0 : s.pos.index - 0 = k := by rw [hp]; rfl
  have raised : ∀ {st info r1}, (Host.Outcome.next (raiseStatus st info r1 s) : Outcome) = .next t → EndsAlone s t :=
    fun h => by cases h; exact raise_endsAlone ..
  have responded : ∀ {st r0 r1}, (Host.Outcome.next (respond st r0 r1 s) : Outcome) = .next t → EndsAlone s t :=
    fun h => by cases h; exact respond_endsAlone ..
  cases i <;> simp only [exec] at ht
  case clkinit => cases ht; exact { respond_endsAlone .ok 0 0 s with tmrEn := fun _ => rfl }
  case time => exact responded ht
  case stat => exact responded ht
  case acctemp => exact raised ht
  case magtemp => exact raised ht
  case fmean => exact responded ht
  case cceval => exact responded ht
  case fpush => cases ht; exact { respond_endsAlone .ok 0 0 s with }
  case fget idx =>
    simp only [execFget] at ht
    split at ht
    · exact raised ht
    · exact responded ht
  case dnew slot duration =>
    simp only [execDnew] at ht
    split at ht
    · exact raised ht
    · cases ht
      refine { respond_endsAlone .ok 0 0 s with delays := List.length_set .., doneArmed := fun hd d hm => ?_ }
      rcases List.mem_or_eq_of_mem_set hm with hm | rfl
      · exact hd d hm
      · exact fun h => nomatch h
  case dpoll slot =>
    simp only [execDpoll] at ht
    split at ht
    · exact raised ht
    · split_ifs at ht with h1 h2 h3
      · exact raised ht
      · exact responded ht
      · cases ht
        refine { respond_endsAlone .ok 0 0 s with delays := List.length_set .., doneArmed := fun hd d hm => ?_ }
        rcases List.mem_or_eq_of_mem_set hm with hm | rfl
        · exact hd d hm
        · exact fun _ => by simpa using h1
      · exact responded ht
  case inew slot period =>
    simp only [execInew] at ht
    split at ht
    · exact raised ht
    · cases ht
      exact { respond_endsAlone .ok 0 0 s with intervals := List.length_set .. }
  case ipoll slot =>
    simp only [execIpoll] at ht
    split at ht
    · exact raised ht
    · split_ifs at ht with h1 h2
      · exact raised ht
      · cases ht
        exact { respond_endsAlone .ok 0 0 s with intervals := List.length_set .. }
      · exact responded ht
  case cccycle => cases hc
  case ccstep => cases hc
  -- one transaction, at position 0
  case accinit | accrd | magrd | pwminit =>
    have : k = 0 := by simp only [positions] at hk; omega
    subst this; cases h
  case wrreg dev reg n data =>
    have : k = 0 := by simp only [positions] at hk; omega
    subst this
    simp only [commandTx] at h
    simp only [execWrreg] at ht
    split at h
    · cases h
    · rw [if_pos (by omega)] at ht; exact raised ht
  case rdreg dev reg ai n =>
    have : k = 0 := by simp only [positions] at hk; omega
    subst this
    simp only [commandTx] at h
    simp only [execRdreg] at ht
    split at h
    · cases h
    · rw [if_pos (by omega)] at ht; exact raised ht
  case pwmset ch on off =>
    have : k = 0 := by simp only [positions] at hk; omega
    subst this
    simp only [commandTx] at h
    simp only [execPwmset] at ht
    split at h
    · cases h
    · split at ht
      · exact raised ht
      · rename_i h1 h2
        rw [not_or, not_or] at h2
        exact absurd ⟨Nat.not_lt.mp h2.1, BitVec.not_lt.mp h2.2.1, BitVec.not_lt.mp h2.2.2⟩ h1
  case maginit rate =>
    have : k < 2 := hk
    exact absurd (List.getElem?_eq_none_iff.mp h) (by simp; omega)
  case motoff =>
    have : k < 8 := hk
    exact absurd (List.getElem?_eq_none_iff.mp h) (by simp; omega)
  case pwmsetm mask on off =>
    simp only [commandTx] at h
    simp only [execPwmsetm] at ht
    split at ht
    · exact raised ht
    · rename_i h2
      rw [not_or] at h2
      rw [if_pos ⟨BitVec.not_lt.mp h2.1, BitVec.not_lt.mp h2.2⟩] at h
      rw [writeSequence_none hp0 h] at ht
      exact responded ht
  case motspd m d speed =>
    have : k < 2 := hk
    simp only [commandTx] at h
    simp only [execMotspd] at ht
    split at ht
    · exact raised ht
    · rename_i h2
      rw [if_pos (BitVec.not_lt.mp h2)] at h
      exact absurd (List.getElem?_eq_none_iff.mp h) (by simp; omega)
  case motall d speed =>
    have : k < 8 := hk
    simp only [commandTx] at h
    simp only [execMotall] at ht
    split at ht
    · exact raised ht
    · rename_i h2
      rw [if_pos (BitVec.not_lt.mp h2)] at h
      exact absurd (List.getElem?_eq_none_iff.mp h) (by simp; omega)

/-! ## The control cycle at the positions without a transaction (R220) -/

section
variable {s : State}

theorem cycleFrom_detect (hp : s.pos = .busy 1) : cycleFrom s = ccDetect s := by simp [cycleFrom, hp]
theorem cycleFrom_toggle (hp : s.pos = .busy 2) : cycleFrom s = ccToggle s := by simp [cycleFrom, hp]
theorem cycleFrom_armSettle (hp : s.pos = .busy 11) : cycleFrom s = ccArmSettle s := by simp [cycleFrom, hp]
theorem cycleFrom_settleWait (hp : s.pos = .busy 12) : cycleFrom s = ccSettleWait s := by simp [cycleFrom, hp]
theorem cycleFrom_indicate (hp : s.pos = .busy 21) : cycleFrom s = ccIndicate s := by simp [cycleFrom, hp]
theorem cycleFrom_finish (hp : s.pos = .busy 22) : cycleFrom s = ccFinish s := by simp [cycleFrom, hp]

/-- The settle wait ends once the target is reached (R224). -/
theorem cycleFrom_settleDone (hp : s.pos = .busy 12) (h : ready s.ccSettle s.tick = true) : cycleFrom s = goto 13 s := by
  rw [cycleFrom_settleWait hp, ccSettleWait, now, if_pos h]

/-- Before that it holds. -/
theorem cycleFrom_settleHold (hp : s.pos = .busy 12) (h : ready s.ccSettle s.tick = false) : cycleFrom s = s := by
  rw [cycleFrom_settleWait hp, ccSettleWait, now, if_neg (by rw [h]; decide)]

/-- From position 1 on the two control cycles go alike (R231). -/
theorem exec_cycle {i : Instr} {k : Nat} (hi : isCycle i = true) (hp : s.pos = .busy (k + 1)) :
    exec i s = .next (cycleFrom s) := by
  cases i <;> first | (cases hi; done) | simp [exec, execCccycle, execCcstep, hp]

/-- A control cycle's step holds at the settle wait (R224). -/
theorem exec_settleHold {i : Instr} (hi : isCycle i = true) (hp : s.pos = .busy 12) (h : ready s.ccSettle s.tick = false) :
    exec i s = .next s :=
  (exec_cycle (k := 11) hi hp).trans (congrArg Host.Outcome.next (cycleFrom_settleHold hp h))

end

/-! The settle target's update, field by field (R224). -/

@[simp] theorem ccArmSettle_cfg (s : State) : (ccArmSettle s).cfg = s.cfg := by rw [ccArmSettle, goto_cfg]
@[simp] theorem ccArmSettle_tick (s : State) : (ccArmSettle s).tick = s.tick := by rw [ccArmSettle, goto_tick]
@[simp] theorem ccArmSettle_tmrEn (s : State) : (ccArmSettle s).tmrEn = s.tmrEn := by rw [ccArmSettle, goto_tmrEn]
@[simp] theorem ccArmSettle_tickPend (s : State) : (ccArmSettle s).tickPend = s.tickPend := by rw [ccArmSettle, goto_tickPend]
@[simp] theorem ccArmSettle_dly (s : State) : (ccArmSettle s).dly = s.dly := by rw [ccArmSettle, goto_dly]
@[simp] theorem ccArmSettle_ivl (s : State) : (ccArmSettle s).ivl = s.ivl := by rw [ccArmSettle, goto_ivl]
@[simp] theorem ccArmSettle_win (s : State) : (ccArmSettle s).win = s.win := by rw [ccArmSettle, goto_win]
@[simp] theorem ccArmSettle_ccDir (s : State) : (ccArmSettle s).ccDir = s.ccDir := by rw [ccArmSettle, goto_ccDir]
@[simp] theorem ccArmSettle_ccLive (s : State) : (ccArmSettle s).ccLive = s.ccLive := by rw [ccArmSettle, goto_ccLive]
@[simp] theorem ccArmSettle_sticky (s : State) : (ccArmSettle s).sticky = s.sticky := by rw [ccArmSettle, goto_sticky]
@[simp] theorem ccArmSettle_cmd (s : State) : (ccArmSettle s).cmd = s.cmd := by rw [ccArmSettle, goto_cmd]
@[simp] theorem ccArmSettle_arg0 (s : State) : (ccArmSettle s).arg0 = s.arg0 := by rw [ccArmSettle, goto_arg0]
@[simp] theorem ccArmSettle_arg1 (s : State) : (ccArmSettle s).arg1 = s.arg1 := by rw [ccArmSettle, goto_arg1]
@[simp] theorem ccArmSettle_resp (s : State) : (ccArmSettle s).resp = s.resp := by rw [ccArmSettle, goto_resp]
@[simp] theorem ccArmSettle_respValid (s : State) : (ccArmSettle s).respValid = s.respValid := by rw [ccArmSettle, goto_respValid]
@[simp] theorem ccArmSettle_bus (s : State) : (ccArmSettle s).bus = s.bus := by rw [ccArmSettle, goto_bus]
@[simp] theorem ccArmSettle_inputs (s : State) : (ccArmSettle s).inputs = s.inputs := by rw [ccArmSettle, goto_inputs]
@[simp] theorem ccArmSettle_history (s : State) : (ccArmSettle s).history = s.history := by rw [ccArmSettle, goto_history]
@[simp] theorem ccArmSettle_pos (s : State) : (ccArmSettle s).pos = .busy 12 := by rw [ccArmSettle, goto_pos]
@[simp] theorem ccArmSettle_ccSettle (s : State) : (ccArmSettle s).ccSettle = s.tick + 1000 := by rw [ccArmSettle, goto_ccSettle]; rfl

/-- `detect` against the baseline depends on the parameters and the window alone. -/
theorem collides_congr {u s : State} {x : Sample} (hc : u.cfg = s.cfg) (hw : u.win = s.win) : collides u x = collides s x := by
  rw [collides, collides, hc, hw]

/-- The positions of a cycle from 1 on that have no transaction. -/
theorem reactionTx_none {cfg : Config} {dir : Direction} {k : Nat} (h0 : 1 ≤ k) (hk : k < 23)
    (h : reactionTx cfg dir k = none) : k = 1 ∨ k = 2 ∨ k = 11 ∨ k = 12 ∨ k = 21 ∨ k = 22 := by
  unfold reactionTx at h
  split_ifs at h with h1 h2 h3 h4
  · omega
  · exact absurd (List.getElem?_eq_none_iff.mp h) (by simp; omega)
  · omega
  · exact absurd (List.getElem?_eq_none_iff.mp h) (by simp; omega)
  · omega

end Sys2Proof.Machine
end

