-- ==== Sys2Proof/Laws/Decode.lean ====
section
/-! SUPPORT. The fields of a command word built from fields, a command word rebuilt from its fields, and the operand words
(30_encoding.md R81, R83, R84). -/

namespace Sys2Proof

/-- The bits of a command word, field by field (R81). -/
theorem getLsbD_cmdWord (op a b c : Byte) (i : Nat) : (cmdWord op a b c).getLsbD i =
    if i < 8 then c.getLsbD i else if i < 16 then b.getLsbD (i - 8)
    else if i < 24 then a.getLsbD (i - 16) else op.getLsbD (i - 24) := by
  have h : (cmdWord op a b c).getLsbD i = (op ++ a ++ b ++ c : BitVec (8 + 8 + 8 + 8)).getLsbD i := rfl
  rw [h, BitVec.getLsbD_append, BitVec.getLsbD_append, BitVec.getLsbD_append]
  split_ifs <;> (first | rfl | omega)

/-- The bits of a command word with an immediate (R81). -/
theorem getLsbD_cmdWordImm (op a : Byte) (imm : Half) (i : Nat) : (cmdWordImm op a imm).getLsbD i =
    if i < 16 then imm.getLsbD i else if i < 24 then a.getLsbD (i - 16) else op.getLsbD (i - 24) := by
  have h : (cmdWordImm op a imm).getLsbD i = (op ++ a ++ imm : BitVec (8 + 8 + 16)).getLsbD i := rfl
  rw [h, BitVec.getLsbD_append, BitVec.getLsbD_append]
  split_ifs <;> (first | rfl | omega)

/-- The bits of a 32-bit word made of two halves. -/
theorem getLsbD_halves (hi lo : Half) (i : Nat) :
    BitVec.getLsbD (w := 32) (hi ++ lo) i = if i < 16 then lo.getLsbD i else hi.getLsbD (i - 16) := by
  have h : BitVec.getLsbD (w := 32) (hi ++ lo) i = (hi ++ lo : BitVec (16 + 16)).getLsbD i := rfl
  rw [h, BitVec.getLsbD_append]

section
variable (op a b c : Byte) (imm hi lo : Half)

@[simp] theorem opField_cmdWord : opField (cmdWord op a b c) = op := by
  apply BitVec.eq_of_getLsbD_eq; intro i hi
  simp only [opField, BitVec.getLsbD_extractLsb', getLsbD_cmdWord, hi, decide_true, Bool.true_and]
  rw [if_neg (by omega), if_neg (by omega), if_neg (by omega)]; congr 1; omega

@[simp] theorem aField_cmdWord : aField (cmdWord op a b c) = a := by
  apply BitVec.eq_of_getLsbD_eq; intro i hi
  simp only [aField, BitVec.getLsbD_extractLsb', getLsbD_cmdWord, hi, decide_true, Bool.true_and]
  rw [if_neg (by omega), if_neg (by omega), if_pos (by omega)]; congr 1; omega

@[simp] theorem bField_cmdWord : bField (cmdWord op a b c) = b := by
  apply BitVec.eq_of_getLsbD_eq; intro i hi
  simp only [bField, BitVec.getLsbD_extractLsb', getLsbD_cmdWord, hi, decide_true, Bool.true_and]
  rw [if_neg (by omega), if_pos (by omega)]; congr 1; omega

@[simp] theorem cField_cmdWord : cField (cmdWord op a b c) = c := by
  apply BitVec.eq_of_getLsbD_eq; intro i hi
  simp only [cField, BitVec.getLsbD_extractLsb', getLsbD_cmdWord, hi, decide_true, Bool.true_and]
  rw [if_pos (by omega)]; congr 1; omega

@[simp] theorem opField_cmdWordImm : opField (cmdWordImm op a imm) = op := by
  apply BitVec.eq_of_getLsbD_eq; intro i hi
  simp only [opField, BitVec.getLsbD_extractLsb', getLsbD_cmdWordImm, hi, decide_true, Bool.true_and]
  rw [if_neg (by omega), if_neg (by omega)]; congr 1; omega

@[simp] theorem aField_cmdWordImm : aField (cmdWordImm op a imm) = a := by
  apply BitVec.eq_of_getLsbD_eq; intro i hi
  simp only [aField, BitVec.getLsbD_extractLsb', getLsbD_cmdWordImm, hi, decide_true, Bool.true_and]
  rw [if_neg (by omega), if_pos (by omega)]; congr 1; omega

/-- `imm16` is the low half of the word (R81). -/
theorem imm16_eq (w : Word) : imm16 w = w.extractLsb' 0 16 := by
  apply BitVec.eq_of_getLsbD_eq; intro i hi
  have h : (imm16 w).getLsbD i = (bField w ++ cField w : BitVec (8 + 8)).getLsbD i := rfl
  rw [h, BitVec.getLsbD_append]
  simp only [bField, cField, BitVec.getLsbD_extractLsb']
  split_ifs with h8
  · simp [h8, hi]
  · have h1 : i - 8 < 8 := by omega
    have h2 : 8 + (i - 8) = i := by omega
    simp [h1, h2, hi]

@[simp] theorem imm16_cmdWordImm : imm16 (cmdWordImm op a imm) = imm := by
  rw [imm16_eq]
  apply BitVec.eq_of_getLsbD_eq; intro i hi
  simp only [BitVec.getLsbD_extractLsb', getLsbD_cmdWordImm, hi, decide_true, Bool.true_and]
  rw [if_pos (by omega)]; congr 1; omega

@[simp] theorem lowHalf_append : lowHalf (hi ++ lo) = lo := by
  apply BitVec.eq_of_getLsbD_eq; intro i h
  simp only [lowHalf, BitVec.getLsbD_extractLsb', getLsbD_halves, h, decide_true, Bool.true_and]
  rw [if_pos (by omega)]; congr 1; omega

@[simp] theorem highHalf_append : highHalf (hi ++ lo) = hi := by
  apply BitVec.eq_of_getLsbD_eq; intro i h
  simp only [highHalf, BitVec.getLsbD_extractLsb', getLsbD_halves, h, decide_true, Bool.true_and]
  rw [if_neg (by omega)]; congr 1; omega

end

/-- `unpack` after `pack` (R83). -/
@[simp] theorem unpack_pack (s : Sample) : unpack (packLow s) (packHigh s) = s := by
  obtain ⟨x, y, z⟩ := s
  have hz : lowHalf (z.setWidth 32) = z := by
    apply BitVec.eq_of_getLsbD_eq; intro i h
    simp [lowHalf, BitVec.getLsbD_setWidth, h]; omega
  simp [unpack, packLow, packHigh, hz]

/-- A command word is its four fields (R81). -/
theorem cmdWord_fields (w : Word) : cmdWord (opField w) (aField w) (bField w) (cField w) = w := by
  apply BitVec.eq_of_getLsbD_eq; intro i hi
  rw [getLsbD_cmdWord]
  simp only [opField, aField, bField, cField, BitVec.getLsbD_extractLsb']
  split_ifs with h1 h2 h3
  · simp [h1]
  · have e : 8 + (i - 8) = i := by omega
    have e' : i - 8 < 8 := by omega
    simp [e, e']
  · have e : 16 + (i - 16) = i := by omega
    have e' : i - 16 < 8 := by omega
    simp [e, e']
  · have e : 24 + (i - 24) = i := by omega
    have e' : i - 24 < 8 := by omega
    simp [e, e']

/-- Two command words are equal when their fields are. -/
theorem cmdWord_inj {op a b c op' a' b' c' : Byte} (h : cmdWord op a b c = cmdWord op' a' b' c') :
    op = op' ∧ a = a' ∧ b = b' ∧ c = c' :=
  ⟨by simpa using congrArg opField h, by simpa using congrArg aField h, by simpa using congrArg bField h,
   by simpa using congrArg cField h⟩

/-- Masking a command word masks its fields (R88). -/
theorem cmdWord_and (op a b c op' a' b' c' : Byte) :
    cmdWord op a b c &&& cmdWord op' a' b' c' = cmdWord (op &&& op') (a &&& a') (b &&& b') (c &&& c') := by
  apply BitVec.eq_of_getLsbD_eq; intro i hi
  simp only [BitVec.getLsbD_and, getLsbD_cmdWord]
  split_ifs <;> rfl

/-- A command word with an immediate, field by field (R81). -/
theorem cmdWordImm_eq (op a : Byte) (imm : Half) : cmdWordImm op a imm = cmdWord op a imm.high imm.low := by
  apply BitVec.eq_of_getLsbD_eq; intro i hi
  simp only [getLsbD_cmdWord, getLsbD_cmdWordImm, Half.high, Half.low, BitVec.getLsbD_extractLsb']
  split_ifs with h1 h2 h3 <;> (first | omega | rfl | skip)
  · simp [h2]
  · have e : 8 + (i - 8) = i := by omega
    have e' : i - 8 < 8 := by omega
    simp [e, e']

/-! ## The opcode -/

/-- A command whose must-be-zero bits are checked is decoded only where they are zero (R82). -/
theorem requireZero_ok {ok : Bool} {op : Byte} {i j : Instr} (h : requireZero ok op i = .ok j) : ok = true ∧ j = i := by
  cases ok
  · cases h
  · cases h; exact ⟨rfl, rfl⟩

/-- The encoding has the command's opcode (R81, R88). -/
@[simp] theorem opField_encode (i : Instr) : opField (encode i).cmd = i.op := by
  cases i <;> simp [encode, plainRequest, Instr.op]

/-- A decoded request has its command's opcode (R81, R88). -/
theorem op_of_decode {r : Request} {i : Instr} (h : decode r = .ok i) : opField r.cmd = i.op := by
  unfold decode at h
  dsimp only at h
  split at h
  case h_28 => cases h
  all_goals
    rename_i hop
    obtain ⟨-, rfl⟩ := requireZero_ok h
    exact BitVec.eq_of_toNat_eq hop

/-! ## Two command words with any operand words (R82, R88) -/

/-- `MOTOFF`. -/
theorem decode_motoff (arg0 arg1 : Word) : decode ⟨0x51000000, arg0, arg1⟩ = .ok .motoff := by
  have op : (opField 0x51000000).toNat = 0x51 := by decide
  have zero : (aField 0x51000000 == 0 && bField 0x51000000 == 0 && cField 0x51000000 == 0) = true := by decide
  unfold decode
  simp only [op, decodeNoFields, zero] <;> rfl

/-- `CCSTEP`. -/
theorem decode_ccstep (arg0 arg1 : Word) : decode ⟨0x73000000, arg0, arg1⟩ = .ok (.ccstep (unpack arg0 arg1)) := by
  have op : (opField 0x73000000).toNat = 0x73 := by decide
  have zero : (aField 0x73000000 == 0 && bField 0x73000000 == 0 && cField 0x73000000 == 0) = true := by decide
  unfold decode
  simp only [op, decodeNoFields, zero] <;> rfl

end Sys2Proof
end

