-- ==== Sys2Proof/Laws/Motors.lean ====
section
/-! SUPPORT. Which writes drive a motor's channel, and that in the commands of R189 each stands right after the write that switches
the antagonist off (45_motor.md R187, R189, R192). -/

namespace Sys2Proof.Machine

/-- An off-write drives no channel. -/
theorem not_drives_channelOff {cfg : Config} {ch : Nat} (hch : ch < 8) {m : Motor} {d : Direction} :
    ¬ drivesChannel cfg (channelOff cfg ch) m d := by
  rintro ⟨on, off, h, hne⟩
  have := (cfg.chMap.chan m d).isLt
  obtain ⟨-, rfl, rfl⟩ := setPwm_inj (by omega) (by omega) h
  exact hne ⟨rfl, rfl⟩

/-- The write that drives a motor drives no other channel. -/
theorem drives_motorActive {cfg : Config} (hc : cfg.wf = true) {m m' : Motor} {d d' : Direction} {speed : Half}
    (h : drivesChannel cfg (motorActive cfg m d speed) m' d') : m' = m ∧ d' = d := by
  obtain ⟨on, off, h, -⟩ := h
  have h1 := (cfg.chMap.chan m d).isLt
  have h2 := (cfg.chMap.chan m' d').isLt
  obtain ⟨e, -, -⟩ := setPwm_inj (by omega) (by omega) h
  have hw : cfg.chMap.wf = true := by simp [Config.wf] at hc; exact hc.1.1
  exact chan_inj hw (Fin.ext e).symm

/-- A position of `drive_all` is that of an antagonist or of a drive. -/
theorem driveAll_cases {k : Nat} (hk : k < 8) : ∃ j m, driveOrder[j]? = some m ∧ (k = 2 * j ∨ k = 2 * j + 1) := by
  match k, hk with
  | 0, _ => exact ⟨0, _, rfl, .inl rfl⟩
  | 1, _ => exact ⟨0, _, rfl, .inr rfl⟩
  | 2, _ => exact ⟨1, _, rfl, .inl rfl⟩
  | 3, _ => exact ⟨1, _, rfl, .inr rfl⟩
  | 4, _ => exact ⟨2, _, rfl, .inl rfl⟩
  | 5, _ => exact ⟨2, _, rfl, .inr rfl⟩
  | 6, _ => exact ⟨3, _, rfl, .inl rfl⟩
  | 7, _ => exact ⟨3, _, rfl, .inr rfl⟩

/-- In `drive_all`, the position before the one that drives a motor's channel switches the antagonist off (R187, R192). -/
theorem driveAll_preceded {cfg : Config} (hc : cfg.wf = true) {k : Nat} {d d' : Direction} {m' : Motor} {speed : Half}
    {tx : Transaction} (h : (driveAll cfg d speed)[k]? = some tx) (hd : drivesChannel cfg tx m' d') :
    1 ≤ k ∧ (driveAll cfg d speed)[k - 1]? = some (antagonistOff cfg m' d') := by
  obtain ⟨j, m, hm, rfl | rfl⟩ := driveAll_cases (k := k) (by simpa using (List.getElem?_eq_some_iff.mp h).1)
  · rw [driveAll_even hm] at h; cases h
    exact absurd hd (not_drives_channelOff (Fin.isLt _))
  · rw [driveAll_odd hm] at h; cases h
    obtain ⟨rfl, rfl⟩ := drives_motorActive hc hd
    exact ⟨by omega, driveAll_even hm⟩

/-- `all_off` drives no channel (R190). -/
theorem allOff_quiet {cfg : Config} {k : Nat} {tx : Transaction} (h : (allOff cfg)[k]? = some tx) {m : Motor}
    {d : Direction} : ¬ drivesChannel cfg tx m d := by
  have hk : k < 8 := by simpa using (List.getElem?_eq_some_iff.mp h).1
  rw [allOff_getElem? hk] at h; cases h
  exact not_drives_channelOff hk

/-- The reaction of a control cycle keeps the order of `drive_all` (R225). -/
theorem reaction_preceded {cfg : Config} (hc : cfg.wf = true) {k : Nat} {dir d : Direction} {m : Motor} {tx : Transaction}
    (h : reactionTx cfg dir k = some tx) (hd : drivesChannel cfg tx m d) :
    1 ≤ k ∧ reactionTx cfg dir (k - 1) = some (antagonistOff cfg m d) := by
  unfold reactionTx at h
  split_ifs at h with h1 h2 h3 h4
  · exact absurd hd (allOff_quiet h)
  · obtain ⟨h5, h6⟩ := driveAll_preceded hc h hd
    refine ⟨by omega, ?_⟩
    rw [reactionTx, if_neg (by omega), if_neg (by omega), if_neg (by omega), if_pos (by omega), ← h6]
    congr 1

/-- A motor command's write that drives a motor's channel stands right after the write that switches the antagonist off. -/
theorem command_preceded {cfg : Config} (hc : cfg.wf = true) {k : Nat} {dir d : Direction} {m : Motor} {tx : Transaction}
    {i : Instr} (ho : i.op ∈ motorOps) (h : commandTx cfg dir k i = some tx) (hd : drivesChannel cfg tx m d) :
    1 ≤ k ∧ commandTx cfg dir (k - 1) i = some (antagonistOff cfg m d) := by
  cases i <;> first | (exact absurd ho (show ¬ _ by simp only [Instr.op]; decide)) | simp only [commandTx] at h ⊢
  case motspd mm dd speed =>
    split at h
    · rename_i hs
      match k with
      | 0 => cases h; exact absurd hd (not_drives_channelOff (Fin.isLt _))
      | 1 =>
        cases h
        obtain ⟨rfl, rfl⟩ := drives_motorActive hc hd
        exact ⟨le_rfl, by rw [if_pos hs]; rfl⟩
      | k + 2 => cases h
    · cases h
  case motoff => exact absurd hd (allOff_quiet h)
  case motall dd speed =>
    split at h
    · rename_i hs
      rw [if_pos hs]; exact driveAll_preceded hc h hd
    · cases h
  case ccstep => exact reaction_preceded hc h hd
  case cccycle =>
    split at h
    · cases h; obtain ⟨on, off, h, -⟩ := hd; cases h
    · obtain ⟨h1, h2⟩ := reaction_preceded hc h hd
      refine ⟨h1, ?_⟩
      split
      · rename_i h3; rw [h3] at h2; cases h2
      · exact h2

end Sys2Proof.Machine
end

