-- ==== Sys2Proof/Laws/PerInstr.lean ====
section
/-! SUPPORT. Family EncodesRow: the command word of every command selects the row of the opcode table that bears its mnemonic
(30_encoding.md R88), one lemma for each constructor. -/

namespace Sys2Proof.Laws.EncodesRow

/-- The encoding of the command selects its own row of the table. -/
def Statement (i : Instr) : Prop :=
  ∃ row ∈ opcodeTable, row.mnemonic = i.mnemonic ∧ row.selects (encode i).cmd = true

/-- A command word selects a row when its four fields, masked, are the row's pattern. -/
theorem selects_fields {row : TableRow} {op a b c : Byte} (m3 m2 m1 m0 : Byte) (hm : row.mask = cmdWord m3 m2 m1 m0)
    (hp : cmdWord (op &&& m3) (a &&& m2) (b &&& m1) (c &&& m0) = row.pattern) :
    row.selects (cmdWord op a b c) = true := by
  simp [TableRow.selects, hm, cmdWord_and, hp]

/-- A field the mask leaves out. -/
theorem and_none (v : Byte) : v &&& 0x00 = 0 := by simp

theorem clkinit : Statement .clkinit :=
  ⟨⟨"CLKINIT", 0x01000000, 0xFFFFFFFF⟩, by decide, rfl, by decide⟩

theorem time : Statement .time :=
  ⟨⟨"TIME", 0x02000000, 0xFFFFFFFF⟩, by decide, rfl, by decide⟩

theorem stat : Statement .stat :=
  ⟨⟨"STAT", 0x03000000, 0xFFFFFFFF⟩, by decide, rfl, by decide⟩

theorem dnew (slot : Nat) (duration : Word) : Statement (.dnew slot duration) :=
  ⟨⟨"DNEW", 0x10000000, 0xFF00FFFF⟩, by decide, rfl, by
    refine selects_fields 0xFF 0x00 0xFF 0xFF (by decide) ?_
    rw [and_none]; decide⟩

theorem dpoll (slot : Nat) : Statement (.dpoll slot) :=
  ⟨⟨"DPOLL", 0x11000000, 0xFF00FFFF⟩, by decide, rfl, by
    refine selects_fields 0xFF 0x00 0xFF 0xFF (by decide) ?_
    rw [and_none]; decide⟩

theorem inew (slot : Nat) (period : Word) : Statement (.inew slot period) :=
  ⟨⟨"INEW", 0x12000000, 0xFF00FFFF⟩, by decide, rfl, by
    refine selects_fields 0xFF 0x00 0xFF 0xFF (by decide) ?_
    rw [and_none]; decide⟩

theorem ipoll (slot : Nat) : Statement (.ipoll slot) :=
  ⟨⟨"IPOLL", 0x13000000, 0xFF00FFFF⟩, by decide, rfl, by
    refine selects_fields 0xFF 0x00 0xFF 0xFF (by decide) ?_
    rw [and_none]; decide⟩

theorem wrreg (dev : DevAddr) (reg : Byte) (n : Nat) (data : Word) : Statement (.wrreg dev reg n data) :=
  ⟨⟨"WRREG", 0x20000000, 0xFF8000F0⟩, by decide, rfl, by
    refine selects_fields 0xFF 0x80 0x00 0xF0 (by decide) ?_
    have hd : ∀ v : DevAddr, (0#1 ++ v : Byte) &&& 0x80 = 0 := by decide
    have hn : ∀ v : BitVec 4, (0#4 ++ v : Byte) &&& 0xF0 = 0 := by decide
    rw [and_none, hd, hn]; decide⟩

theorem rdreg (dev : DevAddr) (reg : Byte) (ai : Bool) (n : Nat) : Statement (.rdreg dev reg ai n) :=
  ⟨⟨"RDREG", 0x21000000, 0xFF800070⟩, by decide, rfl, by
    refine selects_fields 0xFF 0x80 0x00 0x70 (by decide) ?_
    have hd : ∀ v : DevAddr, (0#1 ++ v : Byte) &&& 0x80 = 0 := by decide
    have hn : ∀ (x : Bool) (v : BitVec 4), (BitVec.ofBool x ++ 0#3 ++ v : Byte) &&& 0x70 = 0 := by decide
    rw [and_none, hd, hn]; decide⟩

theorem accinit (rate : BitVec 4) : Statement (.accinit rate) :=
  ⟨⟨"ACCINIT", 0x30000000, 0xFFFFFFF0⟩, by decide, rfl, by
    refine selects_fields 0xFF 0xFF 0xFF 0xF0 (by decide) ?_
    have hr : ∀ v : BitVec 4, (0#4 ++ v : Byte) &&& 0xF0 = 0 := by decide
    rw [hr]; decide⟩

theorem accrd : Statement .accrd :=
  ⟨⟨"ACCRD", 0x31000000, 0xFFFFFFFF⟩, by decide, rfl, by decide⟩

theorem acctemp : Statement .acctemp :=
  ⟨⟨"ACCTEMP", 0x32000000, 0xFFFFFFFF⟩, by decide, rfl, by decide⟩

theorem maginit (rate : BitVec 3) : Statement (.maginit rate) :=
  ⟨⟨"MAGINIT", 0x34000000, 0xFFFFFFF8⟩, by decide, rfl, by
    refine selects_fields 0xFF 0xFF 0xFF 0xF8 (by decide) ?_
    have hr : ∀ v : BitVec 3, (0#5 ++ v : Byte) &&& 0xF8 = 0 := by decide
    rw [hr]; decide⟩

theorem magrd : Statement .magrd :=
  ⟨⟨"MAGRD", 0x35000000, 0xFFFFFFFF⟩, by decide, rfl, by decide⟩

theorem magtemp : Statement .magtemp :=
  ⟨⟨"MAGTEMP", 0x36000000, 0xFFFFFFFF⟩, by decide, rfl, by decide⟩

theorem pwminit : Statement .pwminit :=
  ⟨⟨"PWMINIT", 0x40000000, 0xFFFFFFFF⟩, by decide, rfl, by decide⟩

theorem pwmset (ch : Nat) (on : Half) (off : Half) : Statement (.pwmset ch on off) :=
  ⟨⟨"PWMSET", 0x41000000, 0xFF00FFFF⟩, by decide, rfl, by
    refine selects_fields 0xFF 0x00 0xFF 0xFF (by decide) ?_
    rw [and_none]; decide⟩

theorem pwmsetm (mask : Half) (on : Half) (off : Half) : Statement (.pwmsetm mask on off) :=
  ⟨⟨"PWMSETM", 0x42000000, 0xFFFF0000⟩, by decide, rfl, by
    simp only [encode, cmdWordImm_eq]
    refine selects_fields 0xFF 0xFF 0x00 0x00 (by decide) ?_
    rw [and_none, and_none]; decide⟩

theorem motspd (motor : Motor) (dir : Direction) (speed : Half) : Statement (.motspd motor dir speed) :=
  ⟨⟨"MOTSPD", 0x50000000, 0xFFF80000⟩, by decide, rfl, by
    simp only [encode, plainRequest, cmdWordImm_eq]
    refine selects_fields 0xFF 0xF8 0x00 0x00 (by decide) ?_
    rw [and_none, and_none]; cases motor <;> cases dir <;> decide⟩

theorem motoff : Statement .motoff :=
  ⟨⟨"MOTOFF", 0x51000000, 0xFFFFFFFF⟩, by decide, rfl, by decide⟩

theorem motall (dir : Direction) (speed : Half) : Statement (.motall dir speed) :=
  ⟨⟨"MOTALL", 0x52000000, 0xFFFE0000⟩, by decide, rfl, by
    simp only [encode, plainRequest, cmdWordImm_eq]
    refine selects_fields 0xFF 0xFE 0x00 0x00 (by decide) ?_
    rw [and_none, and_none]; cases dir <;> decide⟩

theorem fpush (s : Sample) : Statement (.fpush s) :=
  ⟨⟨"FPUSH", 0x60000000, 0xFFFFFFFF⟩, by decide, rfl, selects_fields 0xFF 0xFF 0xFF 0xFF (by decide) (by decide)⟩

theorem fmean : Statement .fmean :=
  ⟨⟨"FMEAN", 0x61000000, 0xFFFFFFFF⟩, by decide, rfl, by decide⟩

theorem fget (idx : Nat) : Statement (.fget idx) :=
  ⟨⟨"FGET", 0x62000000, 0xFF00FFFF⟩, by decide, rfl, by
    refine selects_fields 0xFF 0x00 0xFF 0xFF (by decide) ?_
    rw [and_none]; decide⟩

theorem cceval (s : Sample) : Statement (.cceval s) :=
  ⟨⟨"CCEVAL", 0x70000000, 0xFFFFFFFF⟩, by decide, rfl, selects_fields 0xFF 0xFF 0xFF 0xFF (by decide) (by decide)⟩

theorem cccycle : Statement .cccycle :=
  ⟨⟨"CCCYCLE", 0x71000000, 0xFFFFFFFF⟩, by decide, rfl, by decide⟩

theorem ccstep (s : Sample) : Statement (.ccstep s) :=
  ⟨⟨"CCSTEP", 0x73000000, 0xFFFFFFFF⟩, by decide, rfl, selects_fields 0xFF 0xFF 0xFF 0xFF (by decide) (by decide)⟩

end Sys2Proof.Laws.EncodesRow
end

