-- ==== Sys2Proof/Laws/Run.lean ====
section
/-! SUPPORT. Runs of several steps: one after another, and the three steps of a write that BUS answers `Ok`. -/

namespace Sys2Proof.Machine

/-- The first step of a run that answers a next state. -/
theorem run_succ {n : Nat} {s t : State} (h : step s = .next t) : Sys2Proof.core.run (n + 1) s = Sys2Proof.core.run n t := by
  have h' : Sys2Proof.core.step s = .next t := h
  simp only [Host.Core.run, h']

/-- A run after a run. -/
theorem run_add {m n : Nat} {s t : State} (h : Sys2Proof.core.run m s = .next t) :
    Sys2Proof.core.run (m + n) s = Sys2Proof.core.run n t := by
  induction m generalizing s with
  | zero =>
    have h' : (Host.Outcome.next s : Outcome) = .next t := h
    cases h'; rw [Nat.zero_add]
  | succ m ih =>
    cases hs : step s with
    | next u =>
      rw [run_succ hs] at h
      rw [Nat.add_right_comm, run_succ hs]; exact ih h
    | fault r =>
      have hs' : Sys2Proof.core.step s = .fault r := hs
      simp only [Host.Core.run, hs'] at h; cases h
    | refused r =>
      have hs' : Sys2Proof.core.step s = .refused r := hs
      simp only [Host.Core.run, hs'] at h; cases h

/-- SEQ's step with a command in progress. -/
theorem seqStep_busy {s : State} {k : Nat} {i : Instr} (hp : s.pos = .busy k) (hd : decode (latched s) = .ok i) :
    seqStep s = exec i s := by simp only [seqStep, hp, hd]

/-- SEQ's step with a command in progress, as the schedule's next entry. -/
theorem step_seq {s : State} {k : Nat} {i : Instr} {rest : List Input} (h : s.inputs = .seq :: rest)
    (hp : s.pos = .busy k) (hd : decode (latched s) = .ok i) : step s = exec i { s with inputs := rest } :=
  (step_scheduled h).trans (seqStep_busy (s := { s with inputs := rest }) hp hd)

/-- BUS's step, as the schedule's next entry. -/
theorem step_bus {s : State} {ans : BusAnswer} {rest : List Input} (h : s.inputs = .bus ans :: rest) :
    step s = busStep ans { s with inputs := rest } := step_scheduled h

/-- A write of a command, issued, answered `Ok` and taken, in three steps (R53, R43). -/
theorem run_writeAnswered {s : State} {k : Nat} {i : Instr} {rest : List Input} {dev : DevAddr} {bytes : List Byte}
    {f : State → State} (h : s.inputs = writeAnswered ++ rest) (hp : s.pos = .busy k) (hb : s.bus = .free)
    (hd : decode (latched s) = .ok i) (hi : commandTx s.cfg s.ccDir k i = some (.write dev bytes))
    (hk : ∀ u tx, u.pos = .busy k → u.cfg = s.cfg → u.ccDir = s.ccDir → u.bus = .answered tx (.ok []) →
      exec i u = .next (f { u with bus := .free })) :
    Sys2Proof.core.run 3 s = .next (f { s with
      inputs := rest, history := .transaction i.op (.write dev bytes) (some (.ok [])) :: s.history }) := by
  have hop : opField s.cmd = i.op := op_of_decode (r := latched s) hd
  obtain ⟨cont, h1, -⟩ := exec_transact (s := { s with inputs := .bus (.ok []) :: .seq :: rest }) hp hi
  have issued : step s = .next { s with
      inputs := .bus (.ok []) :: .seq :: rest, bus := .outstanding (.write dev bytes) } :=
    (step_seq h hp hd).trans (h1.trans (congrArg Host.Outcome.next (transact_issue _ _ hb)))
  have answered : step { s with inputs := .bus (.ok []) :: .seq :: rest, bus := .outstanding (.write dev bytes) } =
      .next { s with
        inputs := .seq :: rest, bus := .answered (.write dev bytes) (.ok [])
        history := .transaction i.op (.write dev bytes) (some (.ok [])) :: s.history } := by
    rw [← hop]
    exact (step_bus rfl).trans
      (busStep_answer (ans := .ok []) (s := { s with inputs := .seq :: rest, bus := .outstanding (.write dev bytes) }) rfl rfl)
  have taken : step { s with
        inputs := .seq :: rest, bus := .answered (.write dev bytes) (.ok [])
        history := .transaction i.op (.write dev bytes) (some (.ok [])) :: s.history } =
      .next (f { s with
        inputs := rest, history := .transaction i.op (.write dev bytes) (some (.ok [])) :: s.history }) := by
    refine (step_seq (s := { s with
        inputs := .seq :: rest, bus := .answered (.write dev bytes) (.ok [])
        history := .transaction i.op (.write dev bytes) (some (.ok [])) :: s.history }) rfl hp hd).trans ?_
    refine (hk { s with
        inputs := rest, bus := .answered (.write dev bytes) (.ok [])
        history := .transaction i.op (.write dev bytes) (some (.ok [])) :: s.history } _ hp rfl rfl rfl).trans ?_
    rw [hb]
  exact (run_succ issued).trans ((run_succ answered).trans (run_succ taken))

/-- The history entries of one write more. -/
theorem writesDone_cons (op : Byte) (tx : Transaction) (txs : List Transaction) (h : List Event) :
    writesDone op (tx :: txs) ++ h = writesDone op txs ++ .transaction op tx (some (.ok [])) :: h := by
  simp [writesDone]

/-- The schedule of one write more. -/
theorem writesAnswered_succ (n : Nat) : writesAnswered (n + 1) = writeAnswered ++ writesAnswered n := by
  simp [writesAnswered, List.replicate_succ]

/-- Writes at consecutive positions of a command, each answered `Ok` and none the command's last transaction (R17, R67). -/
theorem run_writes {i : Instr} {rest : List Input} (txs : List Transaction) {s : State} {k : Nat}
    (h : s.inputs = writesAnswered txs.length ++ rest) (hp : s.pos = .busy k) (hb : s.bus = .free)
    (hd : decode (latched s) = .ok i)
    (hw : ∀ j tx, txs[j]? = some tx → (∃ dev bytes, tx = .write dev bytes) ∧ commandTx s.cfg s.ccDir (k + j) i = some tx)
    (hk : ∀ j u tx, j < txs.length → u.pos = .busy (k + j) → u.cfg = s.cfg → u.ccDir = s.ccDir →
      u.bus = .answered tx (.ok []) → exec i u = .next (goto (k + j + 1) { u with bus := .free })) :
    Sys2Proof.core.run (3 * txs.length) s = .next { s with
      inputs := rest, pos := .busy (k + txs.length), history := writesDone i.op txs ++ s.history } := by
  induction txs generalizing s k with
  | nil =>
    have h' : s.inputs = rest := h
    have hs : s = { s with inputs := rest, pos := .busy k, history := s.history } := by rw [← hp, ← h']
    exact congrArg Host.Outcome.next hs
  | cons tx txs ih =>
    obtain ⟨⟨dev, bytes, rfl⟩, htx⟩ := hw 0 tx rfl
    have h1 := run_writeAnswered (f := goto (k + 1)) (rest := writesAnswered txs.length ++ rest)
      (by rw [h, List.length_cons, writesAnswered_succ, List.append_assoc]) hp hb hd htx
      (fun u tx a1 a2 a3 a4 => hk 0 u tx (Nat.zero_lt_succ _) a1 a2 a3 a4)
    have h2 := ih (s := goto (k + 1) { s with
        inputs := writesAnswered txs.length ++ rest
        history := .transaction i.op (.write dev bytes) (some (.ok [])) :: s.history }) (k := k + 1) rfl rfl hb hd
      (fun j tx hj => by rw [Nat.add_right_comm k 1 j]; exact hw (j + 1) tx hj)
      (fun j u tx hj a1 a2 a3 a4 => by
        rw [Nat.add_right_comm k 1 j] at a1 ⊢
        exact hk (j + 1) u tx (Nat.succ_lt_succ hj) a1 a2 a3 a4)
    rw [show 3 * (Transaction.write dev bytes :: txs).length = 3 + 3 * txs.length by simp; omega,
      writesDone_cons]
    refine (run_add h1).trans (h2.trans ?_)
    rw [List.length_cons, show k + (txs.length + 1) = k + 1 + txs.length by omega]
    rfl

/-- While the settle target is not reached, SEQ steps, however many, leave a cycle at the settle wait (R224). -/
theorem run_settleHold {i : Instr} {rest : List Input} (j : Nat) {s : State} (h : s.inputs = List.replicate j .seq ++ rest)
    (hi : isCycle i = true) (hp : s.pos = .busy 12) (hd : decode (latched s) = .ok i)
    (hr : ready s.ccSettle s.tick = false) : Sys2Proof.core.run j s = .next { s with inputs := rest } := by
  induction j generalizing s with
  | zero =>
    have h' : s.inputs = rest := h
    rw [← h']; rfl
  | succ j ih =>
    have moved : s.inputs = .seq :: (List.replicate j .seq ++ rest) := h
    have held := (step_seq moved hp hd).trans (exec_settleHold hi hp hr)
    exact (run_succ held).trans (ih rfl hp hd hr)

end Sys2Proof.Machine
end

