-- ==== Sys2Proof/Tests/Slice0.lean ====
section
/-! SUPPORT. Tests: ill-formed terms that WellFormed refuses, words written out from the spec's encodings, single steps with the
results of spec/95_test_vectors.md, and for every statement with hypotheses a witness that meets them. -/

namespace Sys2Proof.Tests

open Sys2Proof.Machine

/-! ## Small states -/

/-- The addresses and parameters that 95_test_vectors.md uses. -/
def testCfg : Config := ⟨0x19, 0x1E, 0x40, 7, ChMap.dflt, 0xC00, 0, 4, 0, 5⟩

/-- The machine after reset, with those parameters. -/
def base : State := { State.reset with cfg := testCfg }

/-- The same, standing at position `k` of a command in progress. -/
def at_ (k : Nat) : State := { base with pos := .busy k }

/-- The same, with an answer on the port. -/
def answered (k : Nat) (ans : BusAnswer) : State := { at_ k with bus := .answered (.write 0 []) ans }

/-- The state a step answers, if it answers one. -/
def after (o : Outcome) : Option State :=
  match o with
  | .next t => some t
  | .fault _ => none
  | .refused _ => none

/-- The response a step leaves with SEQ idle. -/
def response (o : Outcome) : Option Response := (after o).bind fun t => if t.pos = .idle then some t.resp else none

/-- The transaction a step issues. -/
def issued (o : Outcome) : Option Transaction :=
  (after o).bind fun t => match t.bus with
    | .outstanding tx => some tx
    | .free => none
    | .answered _ _ => none

/-! ## Well-formedness: one ill-formed term for each check -/

theorem test_wf_dnew : (Instr.dnew 256 0).wf = false := by decide
theorem test_wf_dpoll : (Instr.dpoll 256).wf = false := by decide
theorem test_wf_inew : (Instr.inew 256 0).wf = false := by decide
theorem test_wf_ipoll : (Instr.ipoll 256).wf = false := by decide
theorem test_wf_wrreg : (Instr.wrreg 0 0 16 0).wf = false := by decide
theorem test_wf_rdreg : (Instr.rdreg 0 0 true 16).wf = false := by decide
theorem test_wf_pwmset : (Instr.pwmset 256 0 0).wf = false := by decide
theorem test_wf_fget : (Instr.fget 256).wf = false := by decide

/-! ## Decoding: a word of every constructor, from R82 and R88 -/

theorem test_decode_clkinit : decode ⟨0x01000000, 0, 0⟩ = .ok .clkinit := by decide
theorem test_decode_time : decode ⟨0x02000000, 5, 6⟩ = .ok .time := by decide
theorem test_decode_stat : decode ⟨0x03000000, 0, 0⟩ = .ok .stat := by decide
theorem test_decode_dnew : decode ⟨0x10FF0000, 0x32, 0⟩ = .ok (.dnew 255 50) := by decide
theorem test_decode_dpoll : decode ⟨0x11090000, 0, 0⟩ = .ok (.dpoll 9) := by decide
theorem test_decode_inew : decode ⟨0x12030000, 0x80, 0⟩ = .ok (.inew 3 128) := by decide
theorem test_decode_ipoll : decode ⟨0x13020000, 0, 0⟩ = .ok (.ipoll 2) := by decide
theorem test_decode_wrreg : decode ⟨0x207FFF03, 0x00030201, 0⟩ = .ok (.wrreg 0x7F 0xFF 3 0x00030201) := by decide
theorem test_decode_rdreg : decode ⟨0x211E0306, 0, 0⟩ = .ok (.rdreg 0x1E 0x03 false 6) := by decide
theorem test_decode_rdreg_ai : decode ⟨0x21198088, 0, 0⟩ = .ok (.rdreg 0x19 0x80 true 8) := by decide
theorem test_decode_accinit : decode ⟨0x30000005, 0, 0⟩ = .ok (.accinit 5) := by decide
theorem test_decode_accrd : decode ⟨0x31000000, 0, 0⟩ = .ok .accrd := by decide
theorem test_decode_acctemp : decode ⟨0x32000000, 0, 0⟩ = .ok .acctemp := by decide
theorem test_decode_maginit : decode ⟨0x34000007, 0, 0⟩ = .ok (.maginit 7) := by decide
theorem test_decode_magrd : decode ⟨0x35000000, 0, 0⟩ = .ok .magrd := by decide
theorem test_decode_magtemp : decode ⟨0x36000000, 0, 0⟩ = .ok .magtemp := by decide
theorem test_decode_pwminit : decode ⟨0x40000000, 0, 0⟩ = .ok .pwminit := by decide
theorem test_decode_pwmset : decode ⟨0x410C0000, 0x05430ABC, 0⟩ = .ok (.pwmset 12 0xABC 0x543) := by decide
theorem test_decode_pwmsetm : decode ⟨0x4200FFFF, 0x00001000, 0⟩ = .ok (.pwmsetm 0xFFFF 0x1000 0) := by decide
theorem test_decode_motspd : decode ⟨0x50050C00, 0, 0⟩ = .ok (.motspd .rearLeft .backward 0xC00) := by decide
theorem test_decode_motoff : decode ⟨0x51000000, 0, 0⟩ = .ok .motoff := by decide
theorem test_decode_motall : decode ⟨0x52000C00, 0, 0⟩ = .ok (.motall .forward 0xC00) := by decide
theorem test_decode_fpush : decode ⟨0x60000000, 0xFFFE0001, 0xABCD0003⟩ = .ok (.fpush ⟨1, 0xFFFE, 3⟩) := by decide
theorem test_decode_fmean : decode ⟨0x61000000, 0, 0⟩ = .ok .fmean := by decide
theorem test_decode_fget : decode ⟨0x62050000, 0, 0⟩ = .ok (.fget 5) := by decide
theorem test_decode_cceval : decode ⟨0x70000000, 0x00020001, 3⟩ = .ok (.cceval ⟨1, 2, 3⟩) := by decide
theorem test_decode_cccycle : decode ⟨0x71000000, 0, 0⟩ = .ok .cccycle := by decide
theorem test_decode_ccstep : decode ⟨0x73000000, 0x00142EEA, 0x1E⟩ = .ok (.ccstep ⟨0x2EEA, 0x14, 0x1E⟩) := by decide

/-- V9: opcodes that no row has. -/
theorem test_decode_unassigned :
    [0x00000000, 0x14000000, 0x22000000, 0x33000000, 0x37000000, 0x43000000, 0x53000000, 0x63000000, 0x72000000,
     0xFF000000].all (fun w => decode ⟨w, 0, 0⟩ == .error (.unknownOpcode (opField w))) = true := by decide

/-- V2.6, V3.8 to V3.10, V3.18, V4, V5.14, V6.10, V6.19, V9: a bit that the format requires to be 0 is 1. -/
theorem test_decode_reserved :
    [0x01000001, 0x02010000, 0x10000100, 0x11090001, 0x20400011, 0x20C00001, 0x20400081, 0x21192846, 0x30000010,
     0x3400000F, 0x41000001, 0x42010000, 0x50080000, 0x51000100, 0x52020000, 0x62000001, 0x73000001].all
      (fun w => decode ⟨w, 0, 0⟩ == .error (.reservedBits (opField w))) = true := by decide

/-- The operand word of `DNEW` stands above the command word in the table's bit numbering (log 24). -/
theorem test_tableWord : decodeTableWord 64 (0x32 * 2 ^ 32 + 0x10030000) = some (.dnew 3 50) := by decide
theorem test_tableWord_sample :
    decodeTableWord 96 (0xABCD0003 * 2 ^ 64 + 0xFFFE0001 * 2 ^ 32 + 0x60000000) = some (.fpush ⟨1, 0xFFFE, 3⟩) := by decide
theorem test_tableWord_short : decodeTableWord 32 (0x32 * 2 ^ 32 + 0x10030000) = some (.dnew 3 0) := by decide
theorem test_fetchWord : response (step (base.withFetchWord 32 0x02000000)) = some ⟨.ok, 0, 0⟩ := by decide

/-! ## The agents -/

/-- V1.1. -/
theorem test_timer_disabled : after (step { base with inputs := [.timer] }) = some base := by decide
/-- V1.3, the event. -/
theorem test_timer_enabled :
    (after (step { base with tmrEn := true, tick := 7, inputs := [.timer] })).map (fun t => (t.tickPend, t.tick)) =
      some (true, 7) := by decide
/-- V1.4. -/
theorem test_handler_wraps :
    (after (step { base with tmrEn := true, tickPend := true, tick := 0xFFFFFFFF, inputs := [.handler] })).map
      (fun t => (t.tickPend, t.tick)) = some (false, 0) := by decide
/-- R40: a request is latched at an idle sequencer. -/
theorem test_request_idle :
    (after (step { base with inputs := [.request ⟨0x10030000, 50, 0⟩] })).map
      (fun t => (t.cmd, t.arg0, t.pos)) = some (0x10030000, 50, .busy 0) := by decide
/-- R261: and not while a command is in progress. -/
theorem test_request_busy :
    after (step { at_ 0 with inputs := [.request ⟨0x10030000, 50, 0⟩] }) = some (at_ 0) := by decide
/-- R243, V9: a word that selects no row. -/
theorem test_illegal :
    (after (step { at_ 0 with cmd := 0x72000000 })).map (fun t => (t.resp, t.sticky, t.pos)) =
      some (⟨.illegal, 0, 0⟩, 0b10000, .idle) := by decide
/-- R271: reset while a transaction is outstanding; it stays in the history without an answer. -/
theorem test_reset_abandons :
    (after (step { at_ 0 with cmd := 0x40000000, sticky := 3, bus := .outstanding (.write 0x40 [0x00, 0x21]),
                              inputs := [.reset] })).map (fun t => (t.pos, t.sticky, t.bus, t.history)) =
      some (.idle, 0, .free, [.transaction 0x40 (.write 0x40 [0x00, 0x21]) none]) := by decide
/-- R271: the late answer to an abandoned transaction, while a new command's transaction is outstanding, is not that one's answer. -/
theorem test_late_answer :
    (after (step { at_ 0 with cmd := 0x31000000, bus := .outstanding (.writeThenRead 0x19 [0xA8] 6),
                              inputs := [.lateBus (.ok [])] })).map (fun t => (t.bus, t.history)) =
      some (.outstanding (.writeThenRead 0x19 [0xA8] 6), []) := by decide
/-- Log 14: an answer with too few bytes stops the model. -/
theorem test_malformed_answer :
    after (step { at_ 0 with cmd := 0x31000000, bus := .outstanding (.writeThenRead 0x19 [0xA8] 6),
                             inputs := [.bus (.ok [1, 2])] }) = none := by decide

/-! ## The commands -/

/-- V1.2. -/
theorem test_clkinit :
    (after (exec .clkinit (at_ 0))).map (fun t => (t.tmrEn, t.tick, t.resp)) = some (true, 0, ⟨.ok, 0, 0⟩) := by decide
/-- V1.6. -/
theorem test_time : response (exec .time { at_ 0 with tick := 0x12C }) = some ⟨.ok, 0x12C, 0⟩ := by decide
/-- V1.9. -/
theorem test_stat :
    response (exec .stat { at_ 0 with tmrEn := true, tickPend := true, ccDir := .backward, sticky := 0b10101 }) =
      some ⟨.ok, 0x1507, 0⟩ := by decide
/-- V2.1. -/
theorem test_dnew :
    (after (exec (.dnew 1 0x20) { at_ 0 with tick := 0xFFFFFFF0 })).map (fun t => (t.resp, t.dly[1]?)) =
      some (⟨.ok, 0x10, 0⟩, some ⟨true, false, 0x10⟩) := by decide
/-- V2.4. -/
theorem test_dnew_range : response (exec (.dnew 4 1) (at_ 0)) = some ⟨.range, 0, 0⟩ := by decide
/-- V2.3. -/
theorem test_dpoll_unarmed :
    (after (exec (.dpoll 0) (at_ 0))).map (fun t => (t.resp, t.sticky)) = some (⟨.unarmed, 0, 0⟩, 0b01000) := by decide
/-- V2.8: the latch answers, the clock is not read. -/
theorem test_dpoll_latched :
    response (exec (.dpoll 0) { at_ 0 with tick := 0x80000096, dly := [⟨true, true, 150⟩] }) = some ⟨.ok, 0, 0⟩ := by decide
/-- V2.11. -/
theorem test_inew :
    (after (exec (.inew 3 0) { at_ 0 with tick := 1000 })).map (fun t => (t.resp, t.ivl[3]?)) =
      some (⟨.ok, 1000, 0⟩, some ⟨true, 1000, 0⟩) := by decide
/-- V2.13: from the boundary, not from now. -/
theorem test_ipoll_late :
    (after (exec (.ipoll 0) { at_ 0 with tick := 450, ivl := [⟨true, 200, 100⟩] })).map (fun t => (t.resp, t.ivl)) =
      some (⟨.ok, 1, 0⟩, [⟨true, 300, 100⟩]) := by decide
/-- V2.12, at tick 0x3F. -/
theorem test_ipoll_early :
    response (exec (.ipoll 0) { at_ 0 with tick := 0x3F, ivl := [⟨true, 0x40, 0x80⟩] }) = some ⟨.ok, 0, 0⟩ := by decide
/-- V3.3. -/
theorem test_wrreg : issued (exec (.wrreg 0x1E 0x02 2 0xAABBCCDD) (at_ 0)) = some (.write 0x1E [0x02, 0xDD, 0xCC]) := by
  decide
/-- V3.11. -/
theorem test_wrreg_error :
    (after (exec (.wrreg 0x40 0x00 1 0x21) (answered 0 (.err 3)))).map (fun t => (t.resp, t.sticky)) =
      some (⟨.busError, 3, 0⟩, 0b00001) := by decide
/-- V3.13, the start byte. -/
theorem test_rdreg_issue :
    issued (exec (.rdreg 0x19 0x28 true 6) (at_ 0)) = some (.writeThenRead 0x19 [0xA8] 6) := by decide
/-- V3.13, the lanes. -/
theorem test_rdreg_answer :
    response (exec (.rdreg 0x19 0x28 true 6) (answered 0 (.ok [0x10, 0x27, 0x00, 0x00, 0xF0, 0xD8]))) =
      some ⟨.ok, 0x00002710, 0x0000D8F0⟩ := by decide
/-- V4.1a. -/
theorem test_accinit : issued (exec (.accinit 5) (at_ 0)) = some (.write 0x19 [0x20, 0x57]) := by decide
/-- V4.2a, the start byte. -/
theorem test_accrd_issue : issued (exec .accrd (at_ 0)) = some (.writeThenRead 0x19 [0xA8] 6) := by decide
/-- V4.2b. -/
theorem test_accrd_answer :
    response (exec .accrd (answered 0 (.ok [0x00, 0x80, 0xFF, 0x7F, 0xFF, 0xFF]))) =
      some ⟨.ok, 0x7FFF8000, 0x0000FFFF⟩ := by decide
/-- V4.3. -/
theorem test_acctemp :
    (after (exec .acctemp (at_ 0))).map (fun t => (t.resp, t.sticky)) = some (⟨.unsupported, 0, 0⟩, 0b00100) := by decide
/-- V4.4a, the second write. -/
theorem test_maginit : issued (exec (.maginit 4) (at_ 1)) = some (.write 0x1E [0x00, 0x90]) := by decide
/-- V4.4d. -/
theorem test_maginit_error : response (exec (.maginit 4) (answered 0 (.err 1))) = some ⟨.busError, 1, 0⟩ := by decide
/-- V4.5a, the start byte. -/
theorem test_magrd_issue : issued (exec .magrd (at_ 0)) = some (.writeThenRead 0x1E [0x03] 6) := by decide
/-- V4.5a. -/
theorem test_magrd_answer :
    response (exec .magrd (answered 0 (.ok [0x01, 0x02, 0xFF, 0xFE, 0x00, 0x10]))) =
      some ⟨.ok, 0x00100102, 0x0000FFFE⟩ := by decide
/-- V4.6. -/
theorem test_magtemp : response (exec .magtemp (at_ 0)) = some ⟨.unsupported, 0, 0⟩ := by decide
/-- V5.9. -/
theorem test_pwminit : issued (exec .pwminit (at_ 0)) = some (.write 0x40 [0x00, 0x21]) := by decide
/-- V5.4. -/
theorem test_pwmset : issued (exec (.pwmset 3 0x123 0xEDC) (at_ 0)) = some (.write 0x40 [0x12, 0x23, 0x01, 0xDC, 0x0E]) := by
  decide
/-- V5.10: not truncated. -/
theorem test_pwmset_range : response (exec (.pwmset 0 0x1000 0) (at_ 0)) = some ⟨.range, 0, 0⟩ := by decide
/-- V5.17, the second write. -/
theorem test_pwmsetm :
    issued (exec (.pwmsetm 0x8001 0x800 0x7FF) (at_ 1)) = some (.write 0x40 [0x42, 0x00, 0x08, 0xFF, 0x07]) := by decide
/-- V5.18: the third write fails after two completed. -/
theorem test_pwmsetm_error :
    response (exec (.pwmsetm 0x00FF 0 0xFFF) (answered 2 (.err 9))) = some ⟨.busError, 9, 2⟩ := by decide
/-- V6.8, the antagonist. -/
theorem test_motspd_antagonist :
    issued (exec (.motspd .rearRight .backward 0xFFE) (at_ 0)) = some (.write 0x40 [0x1E, 0x00, 0x00, 0xFF, 0x0F]) := by
  decide
/-- V6.8, the active channel. -/
theorem test_motspd_active :
    issued (exec (.motspd .rearRight .backward 0xFFE) (at_ 1)) = some (.write 0x40 [0x22, 0xFE, 0x0F, 0x01, 0x00]) := by
  decide
/-- V6.13, the last answer. -/
theorem test_motoff : response (exec .motoff (answered 7 (.ok []))) = some ⟨.ok, 0, 8⟩ := by decide
/-- V6.14. -/
theorem test_motoff_error : response (exec .motoff (answered 3 (.err 7))) = some ⟨.busError, 7, 3⟩ := by decide
/-- V6.16, the fourth write. -/
theorem test_motall :
    issued (exec (.motall .backward 0xC00) (at_ 3)) = some (.write 0x40 [0x12, 0x00, 0x0C, 0xFF, 0x03]) := by decide
/-- V6.18. -/
theorem test_motall_range : response (exec (.motall .forward 0x1000) (at_ 0)) = some ⟨.range, 0, 0⟩ := by decide

/-- The window of P2, step 7, before the push. -/
def pushed : Window := ⟨⟨1, 1, 1⟩, ⟨2, 2, 2⟩, ⟨3, 3, 3⟩, ⟨4, 4, 4⟩, ⟨5, 5, 5⟩⟩

/-- P2, step 7. -/
theorem test_fpush :
    (after (exec (.fpush ⟨6, 6, 6⟩) { at_ 0 with win := pushed })).map State.win =
      some ⟨⟨2, 2, 2⟩, ⟨3, 3, 3⟩, ⟨4, 4, 4⟩, ⟨5, 5, 5⟩, ⟨6, 6, 6⟩⟩ := by decide
/-- V7.9: toward zero, on a negative sum too. -/
theorem test_fmean :
    response (exec .fmean { at_ 0 with
      win := ⟨⟨100, 200, 300⟩, ⟨0xFF9C, 0xFF37, 299⟩, ⟨7, 7, 7⟩, ⟨0xFFF9, 0xFFF9, 0xFFF9⟩, ⟨4, 0xFFFC, 4⟩⟩ }) =
      some ⟨.ok, 0xFFFF0000, 0x00000078⟩ := by decide
/-- V7.3, the column `(1,5)`. -/
theorem test_fmean_lastFour :
    mean { testCfg with meanLo := 1 } ⟨⟨2, 2, 2⟩, ⟨3, 3, 3⟩, ⟨4, 4, 4⟩, ⟨5, 5, 5⟩, ⟨6, 6, 6⟩⟩ = ⟨3, 3, 3⟩ := by decide
/-- P2, step 9, on the window before. -/
theorem test_fget : response (exec (.fget 4) { at_ 0 with win := pushed }) = some ⟨.ok, 0x00050005, 5⟩ := by decide
/-- P2, step 11. -/
theorem test_fget_range : response (exec (.fget 5) { at_ 0 with win := pushed }) = some ⟨.range, 0, 0⟩ := by decide
/-- V8.3: strict. -/
theorem test_cceval_strict : response (exec (.cceval ⟨0, 10000, 0⟩) (at_ 0)) = some ⟨.ok, 0, 0⟩ := by decide
/-- V8.7: exact, no 16-bit wrap. -/
theorem test_detect_exact : detect ⟨0x8AD0, 0, 0⟩ ⟨0x7530, 0, 0⟩ = false := by decide
/-- V8.13, position 11. -/
theorem test_ccstep_settle :
    (after (exec (.ccstep ⟨0, 10001, 0⟩) { at_ 11 with tick := 40 })).map (fun t => (t.ccSettle, t.pos)) =
      some (1040, .busy 12) := by decide
/-- V8.15: the third off-write fails; no push, and the toggle stays. -/
theorem test_ccstep_error :
    (after (exec (.ccstep ⟨0, 10001, 0⟩) { answered 5 (.err 6) with ccDir := .backward })).map
      (fun t => (t.resp, t.ccDir, t.win)) = some (⟨.busError, 6, 0⟩, .backward, Window.zero) := by decide
/-- V8.18, the sample read. -/
theorem test_cccycle_sample :
    (after (exec .cccycle (answered 0 (.ok [0x00, 0x00, 0x11, 0x27, 0x00, 0x00])))).map (fun t => (t.ccLive, t.pos)) =
      some (⟨0, 10001, 0⟩, .busy 1) := by decide
/-- V8.19, the end of the cycle. -/
theorem test_cccycle_end :
    response (exec .cccycle { at_ 22 with ccLive := ⟨20000, 0, 0⟩ }) = some ⟨.ok, 1, 0⟩ := by decide

/-! ## Witnesses: for each statement with hypotheses, states and operands that meet them, clause by clause at a boundary -/

theorem witness_DecodeEncodeRoundTrip :
    (Instr.dnew 255 0xFFFFFFFF).wf = true ∧ (Instr.rdreg 0x7F 0xFF true 15).wf = true := by decide

theorem witness_DecodedCommandReencodes :
    decode ⟨0x21192886, 0xFFFFFFFF, 1⟩ = .ok (.rdreg 0x19 0x28 true 6) ∧
    decode ⟨0x73000000, 0, 0xFFFF0000⟩ = .ok (.ccstep ⟨0, 0, 0⟩) := by decide

theorem witness_DecodeMatchesOpcodeTable :
    decode ⟨0x50070FFF, 0, 0⟩ = .ok (.motspd .rearRight .backward 0xFFF) ∧
    (⟨"MOTSPD", 0x50000000, 0xFFF80000⟩ : TableRow) ∈ opcodeTable ∧
    (0x50070FFF : Word) &&& 0xFFF80000 = 0x50000000 := by decide

theorem witness_StepRunsDecodedCommand :
    let s := { at_ 7 with cmd := 0x51000000 }
    let t := { s with inputs := [.seq, .timer] }
    (s.pos = .busy 7 ∧ decode ⟨s.cmd, s.arg0, s.arg1⟩ = .ok .motoff ∧ s.inputs = []) ∧
    (t.pos = .busy 7 ∧ decode ⟨t.cmd, t.arg0, t.arg1⟩ = .ok .motoff ∧ t.inputs = .seq :: [.timer]) := by decide

theorem witness_FetchWordRunsCommand :
    decodeTableWord 32 0x51000000 = some .motoff ∧
    decodeTableWord 96 (3 * 2 ^ 64 + 0x00020001 * 2 ^ 32 + 0x73000000) = some (.ccstep ⟨1, 2, 3⟩) := by decide

theorem witness_CommandAcceptedOnlyWhileIdle :
    let r : Request := ⟨0x51000000, 0, 0⟩
    let s := { base with inputs := [.request r] }
    let t := { at_ 0 with inputs := [.request r] }
    (s.inputs = .request r :: [] ∧ s.pos = .idle) ∧ (t.inputs = .request r :: [] ∧ t.pos = .busy 0) := by decide

theorem witness_IllegalWordRaisesIllegal :
    let s := { at_ 0 with cmd := 0x72000000 }
    s.pos = .busy 0 ∧ ∀ row ∈ opcodeTable, s.cmd &&& row.mask ≠ row.pattern := by decide

theorem witness_RaiseSetsStickyAndIdles :
    let l := [(Status.busError, 0), (Status.range, 1), (Status.unsupported, 2), (Status.unarmed, 3), (Status.illegal, 4)]
    (Status.busError, 0) ∈ l ∧ (Status.illegal, 4) ∈ l := by decide

theorem witness_TimerEventSetsPendingWhenEnabled :
    let s := { base with tmrEn := true, inputs := [.timer] }
    let t := { base with inputs := [.timer] }
    s.inputs = .timer :: [] ∧ s.tmrEn = true ∧ t.inputs = .timer :: [] ∧ t.tmrEn = false := by decide

theorem witness_HandlerClearsPendingAndCounts :
    let s := { base with tmrEn := true, tickPend := true, tick := 0xFFFFFFFF, inputs := [.handler] }
    let t := { base with inputs := [.handler] }
    (s.inputs = .handler :: [] ∧ s.tickPend = true) ∧ (t.inputs = .handler :: [] ∧ t.tickPend = false) := by decide

/-- One witness for each of the three cases. -/
theorem witness_TickChangesOnlyByHandlerOrReset :
    step base = .next base ∧
    step { base with tickPend := true, inputs := [.handler] } = .next { base with tick := 1 } ∧
    step { base with tick := 9, inputs := [.reset] } = .next base := ⟨rfl, rfl, rfl⟩

theorem witness_OneTickPerPeriod :
    let s := { at_ 12 with tmrEn := true, inputs := ticks 2 ++ [Input.seq] }
    let t := { at_ 12 with tmrEn := true, inputs := [.seq] }
    (s.tmrEn = true ∧ s.tickPend = false ∧ s.inputs = ticks 2 ++ [Input.seq]) ∧
    (t.tmrEn = true ∧ t.tickPend = false ∧ t.inputs = ticks 0 ++ [Input.seq]) := by decide

theorem witness_SecondTimerEventIsLost :
    let s := { base with tmrEn := true, inputs := [.timer, .timer, .handler] }
    s.tmrEn = true ∧ s.inputs = .timer :: .timer :: .handler :: [] := by decide

/-- The last slot and the first past it. -/
theorem witness_DnewArmsDelay : 3 < base.dly.length ∧ base.dly.length ≤ 4 := by decide
theorem witness_InewArmsInterval : 3 < base.ivl.length ∧ base.ivl.length ≤ 4 := by decide

/-- Past the last slot; unarmed; reported; ready at the last tick of the half range; not ready at the first past it. -/
theorem witness_DpollAnswers :
    let s := { base with tick := 0x7FFFFFFF,
                         dly := [⟨false, false, 0⟩, ⟨true, true, 0⟩, ⟨true, false, 0⟩, ⟨true, false, 0xFFFFFFFF⟩] }
    s.dly.length ≤ 4 ∧
    (s.dly[0]? = some ⟨false, false, 0⟩ ∧ (⟨false, false, 0⟩ : DelaySlot).armed = false) ∧
    (s.dly[1]? = some ⟨true, true, 0⟩) ∧
    (s.dly[2]? = some ⟨true, false, 0⟩ ∧ (s.tick - 0).toNat < 2 ^ 31) ∧
    (s.dly[3]? = some ⟨true, false, 0xFFFFFFFF⟩ ∧ 2 ^ 31 ≤ (s.tick - 0xFFFFFFFF).toNat) := by decide

theorem witness_IpollAnswers :
    let s := { base with tick := 0x7FFFFFFF,
                         ivl := [⟨false, 0, 0⟩, ⟨true, 0, 7⟩, ⟨true, 0xFFFFFFFF, 7⟩] }
    s.ivl.length ≤ 3 ∧ s.ivl[0]? = some ⟨false, 0, 0⟩ ∧
    (s.ivl[1]? = some ⟨true, 0, 7⟩ ∧ (s.tick - 0).toNat < 2 ^ 31) ∧
    (s.ivl[2]? = some ⟨true, 0xFFFFFFFF, 7⟩ ∧ 2 ^ 31 ≤ (s.tick - 0xFFFFFFFF).toNat) := by decide

/-- A poll that answers `OK`; a reported slot; and a step that is neither its re-arming nor reset. -/
theorem witness_DoneDelayStaysReady :
    (∃ t, exec (.dpoll 0) { base with dly := [⟨true, false, 0⟩] } = .next t ∧ t.resp.status = .ok) ∧
    let s := { at_ 0 with cmd := 0x10010000, dly := [⟨true, true, 150⟩, DelaySlot.unarmed] }
    (s.dly[0]? = some ⟨true, true, 150⟩ ∧ s.inputs.head? ≠ some .reset ∧ inProgress s = some (.dnew 1 0, 0)) ∧
    (∃ t, step s = .next t) ∧ (∀ duration k, inProgress s ≠ some (.dnew 0 duration, k)) := by
  refine ⟨⟨_, rfl, rfl⟩, by decide, ⟨_, rfl⟩, fun duration k h => ?_⟩
  have h' : (some (Instr.dnew 1 0, 0) : Option (Instr × Nat)) = some (.dnew 0 duration, k) := h
  simp at h'

/-- The last tick before the duration, the first at it; the longest duration, across the wrap; duration 0. -/
theorem witness_DelayReadyExactlyAfterDuration :
    let before := { base with tick := 0xFFFFFFF0 + BitVec.ofNat 32 0x7FFFFFFF, dly := [⟨true, false, 0xFFFFFFF0 + 0x80000000⟩] }
    let at' := { base with tick := 0xFFFFFFF0 + BitVec.ofNat 32 0x80000000, dly := [⟨true, false, 0xFFFFFFF0 + 0x80000000⟩] }
    (before.dly[0]? = some ⟨true, false, 0xFFFFFFF0 + 0x80000000⟩ ∧ before.tick = 0xFFFFFFF0 + BitVec.ofNat 32 0x7FFFFFFF) ∧
    (at'.dly[0]? = some ⟨true, false, 0xFFFFFFF0 + 0x80000000⟩ ∧ at'.tick = 0xFFFFFFF0 + BitVec.ofNat 32 0x80000000) ∧
    (0x80000000 : Word).toNat ≤ 2 ^ 31 ∧ 0x7FFFFFFF < (0x80000000 : Word).toNat ∧ (0x80000000 : Word).toNat ≤ 0x80000000 := by
  decide

theorem witness_LateIntervalFiresOncePerBoundary :
    let v : IntervalSlot := ⟨true, 200, 100⟩
    let s := { base with tick := 450, ivl := [v] }
    s.ivl[0]? = some v ∧ v.armed = true ∧ (s.tick - v.target).toNat = 250 ∧ 250 < 2 ^ 31 ∧ 0 < v.period.toNat ∧
      v.period.toNat ≤ 2 ^ 31 ∧ 2 ≤ 250 / v.period.toNat := by decide

/-- The first and the last write of `MOTOFF`, and the sample read of a control cycle. -/
theorem witness_TransactionIssuedThenHeld :
    let s := at_ 7
    let t := { at_ 0 with bus := .outstanding (accRead testCfg) }
    (s.pos = .busy 7 ∧ commandTx s.cfg s.ccDir 7 .motoff = some (channelOff s.cfg 7) ∧ s.bus = .free) ∧
    (t.pos = .busy 0 ∧ commandTx t.cfg t.ccDir 0 .cccycle = some (accRead t.cfg) ∧
      t.bus = .outstanding (accRead testCfg)) := by decide

theorem witness_BusErrorEndsCommand :
    let s := answered 7 (.err 7)
    let t := answered 20 (.err 1)
    (s.pos = .busy 7 ∧ commandTx s.cfg s.ccDir 7 .motoff = some (channelOff s.cfg 7) ∧
      s.bus = .answered (.write 0 []) (.err 7) ∧ Instr.motoff.mnemonic ∈ ["PWMSETM", "MOTOFF", "MOTALL"]) ∧
    (t.pos = .busy 20 ∧
      commandTx t.cfg t.ccDir 20 .cccycle = some (motorActive t.cfg .rearRight .forward (driveSpeed t.cfg)) ∧
      t.bus = .answered (.write 0 []) (.err 1) ∧ Instr.cccycle.mnemonic ∉ ["PWMSETM", "MOTOFF", "MOTALL"]) := by decide

/-- An answer of exactly six bytes; one of five; a free port; a port that holds an answer; a late answer while another transaction is
outstanding. -/
theorem witness_BusAnswerEntersHistory :
    let tx : Transaction := .writeThenRead 0x19 [0xA8] 6
    let s := { at_ 0 with bus := .outstanding tx, inputs := [.bus (.ok [1, 2, 3, 4, 5, 6])] }
    let short := { at_ 0 with bus := .outstanding tx, inputs := [.bus (.ok [1, 2, 3, 4, 5])] }
    let t := { base with inputs := [.bus (.err 1)] }
    let u := { answered 0 (.ok []) with inputs := [.bus (.err 1)] }
    let late := { at_ 0 with bus := .outstanding tx, inputs := [.lateBus (.err 1)] }
    (s.inputs = .bus (.ok [1, 2, 3, 4, 5, 6]) :: [] ∧ s.bus = .outstanding tx ∧
      (BusAnswer.ok [1, 2, 3, 4, 5, 6]).fits tx = true) ∧
    (short.inputs = .bus (.ok [1, 2, 3, 4, 5]) :: [] ∧ short.bus = .outstanding tx ∧
      (BusAnswer.ok [1, 2, 3, 4, 5]).fits tx = false) ∧
    (t.inputs = .bus (.err 1) :: [] ∧ t.bus = .free) ∧
    (u.inputs = .bus (.err 1) :: [] ∧ u.bus = .answered (.write 0 []) (.ok [])) ∧
    late.inputs = .lateBus (.err 1) :: [] := by decide

/-- A free port and a port with the answer of a write: the two clauses of the statements about one write. -/
theorem witness_oneWrite :
    (at_ 0).bus = .free ∧ (answered 0 (.ok [])).bus = .answered (.write 0 []) (.ok []) := by decide

/-- `WRREG`: counts 0, 1, 4 and 5. -/
theorem witness_WrregWritesBytes :
    ((0 : Nat) < 1 ∨ 4 < 0) ∧ (5 < 1 ∨ 4 < 5) ∧ (1 ≤ 1 ∧ 1 ≤ 4) ∧ (1 ≤ 4 ∧ 4 ≤ 4) ∧ (at_ 0).bus = .free ∧
    (answered 0 (.ok [])).bus = .answered (.write 0 []) (.ok []) := by decide

/-- `RDREG`: counts 0, 1, 8 and 9. -/
theorem witness_RdregReturnsLanes :
    ((0 : Nat) < 1 ∨ 8 < 0) ∧ (9 < 1 ∨ 8 < 9) ∧ (1 ≤ 1 ∧ 1 ≤ 8) ∧ (1 ≤ 8 ∧ 8 ≤ 8) ∧ (at_ 0).bus = .free ∧
    (answered 0 (.ok [1, 2, 3, 4, 5, 6, 7, 8])).bus = .answered (.write 0 []) (.ok [1, 2, 3, 4, 5, 6, 7, 8]) ∧
    [1, 2, 3, 4, 5, 6, 7, 8].length = 8 := by decide

theorem witness_AccinitWritesControl :
    (at_ 0).bus = .free ∧ (answered 0 (.ok [])).bus = .answered (.write 0 []) (.ok []) := witness_oneWrite
theorem witness_PwminitWritesMode :
    (at_ 0).bus = .free ∧ (answered 0 (.ok [])).bus = .answered (.write 0 []) (.ok []) := witness_oneWrite
theorem witness_AccrdReturnsSample :
    (at_ 0).bus = .free ∧
    (answered 0 (.ok [1, 2, 3, 4, 5, 6])).bus = .answered (.write 0 []) (.ok [1, 2, 3, 4, 5, 6]) := by decide
theorem witness_MagrdReturnsSample :
    (at_ 0).bus = .free ∧
    (answered 0 (.ok [1, 2, 3, 4, 5, 6])).bus = .answered (.write 0 []) (.ok [1, 2, 3, 4, 5, 6]) := by decide

theorem witness_MaginitModeThenRate :
    ((at_ 0).pos = .busy 0 ∧ (at_ 0).bus = .free) ∧ ((at_ 1).pos = .busy 1 ∧ (at_ 1).bus = .free) ∧
    ((answered 0 (.ok [])).pos = .busy 0 ∧ (answered 0 (.ok [])).bus = .answered (.write 0 []) (.ok [])) ∧
    ((answered 1 (.ok [])).pos = .busy 1 ∧ (answered 1 (.ok [])).bus = .answered (.write 0 []) (.ok [])) := by decide

/-- The largest legal operands and the smallest illegal ones. -/
theorem witness_PwmsetWritesChannel :
    (15 < 16 ∨ 0xFFF < (0 : Half).toNat ∨ 0xFFF < (0 : Half).toNat) ∧
    (15 < 0 ∨ 0xFFF < (0x1000 : Half).toNat ∨ 0xFFF < (0 : Half).toNat) ∧
    (15 < 0 ∨ 0xFFF < (0 : Half).toNat ∨ 0xFFF < (0x1000 : Half).toNat) ∧
    (15 ≤ 15 ∧ (0xFFF : Half).toNat ≤ 0xFFF) ∧ (at_ 0).bus = .free ∧
    (answered 0 (.ok [])).bus = .answered (.write 0 []) (.ok []) := by decide

/-- The channels of the mask 0x8001, the position of each; the empty mask; the smallest illegal pair value. -/
theorem witness_PwmsetmWritesSelectedChannels :
    ([0, 15].Pairwise (· < ·) ∧ ∀ ch, ch ∈ [0, 15] ↔ ch < 16 ∧ (0x8001 : Half).getLsbD ch = true) ∧
    (([] : List Nat).Pairwise (· < ·) ∧ ∀ ch, ch ∈ ([] : List Nat) ↔ ch < 16 ∧ (0 : Half).getLsbD ch = true) ∧
    (0xFFF < (0x1000 : Half).toNat ∧ (0xFFF : Half).toNat ≤ 0xFFF) ∧
    ((at_ 0).pos = .busy 0 ∧ [0, 15][0]? = some 0 ∧ (at_ 0).bus = .free) ∧
    ((answered 1 (.ok [])).pos = .busy 1 ∧ [0, 15][1]? = some 15 ∧
      (answered 1 (.ok [])).bus = .answered (.write 0 []) (.ok [])) := by
  refine ⟨⟨by decide, fun ch => ?_⟩, ⟨by decide, fun ch => by simp⟩, by decide, by decide, by decide⟩
  have h : ∀ ch : Fin 16, ch.val ∈ [0, 15] ↔ ch.val < 16 ∧ (0x8001 : Half).getLsbD ch.val = true := by decide
  by_cases hc : ch < 16
  · exact h ⟨ch, hc⟩
  · have : ch ∉ [0, 15] := by simp; omega
    exact ⟨fun hm => absurd hm this, fun hm => absurd hm.1 hc⟩

theorem witness_MotspdAntagonistFirst :
    0xFFF < (0x1000 : Half).toNat ∧ (0xFFF : Half).toNat ≤ 0xFFF ∧
    ((at_ 0).pos = .busy 0 ∧ (at_ 0).bus = .free) ∧ ((at_ 1).pos = .busy 1 ∧ (at_ 1).bus = .free) ∧
    ((answered 0 (.ok [])).pos = .busy 0 ∧ (answered 0 (.ok [])).bus = .answered (.write 0 []) (.ok [])) ∧
    ((answered 1 (.ok [])).pos = .busy 1 ∧ (answered 1 (.ok [])).bus = .answered (.write 0 []) (.ok [])) := by decide

theorem witness_MotoffWritesEightChannelsOff :
    ((at_ 7).pos = .busy 7 ∧ 7 < 8 ∧ (at_ 7).bus = .free) ∧
    ((answered 6 (.ok [])).pos = .busy 6 ∧ 6 < 7 ∧ (answered 6 (.ok [])).bus = .answered (.write 0 []) (.ok [])) ∧
    ((answered 7 (.ok [])).pos = .busy 7 ∧ ¬ 7 < 7 ∧ (answered 7 (.ok [])).bus = .answered (.write 0 []) (.ok [])) := by
  decide

theorem witness_MotallDrivesFourMotors :
    0xFFF < (0x1000 : Half).toNat ∧ (0xFFF : Half).toNat ≤ 0xFFF ∧
    [Motor.frontLeft, .frontRight, .rearLeft, .rearRight][3]? = some .rearRight ∧
    ((at_ 6).pos = .busy (2 * 3) ∧ (at_ 6).bus = .free) ∧ ((at_ 7).pos = .busy (2 * 3 + 1) ∧ (at_ 7).bus = .free) ∧
    ((answered 7 (.ok [])).pos = .busy 7 ∧ (answered 7 (.ok [])).bus = .answered (.write 0 []) (.ok [])) := by decide

theorem witness_MotoffRunsToCompletion :
    let s := { base with inputs := Input.request ⟨0x51000000, 1, 2⟩ :: (writesAnswered 8 ++ [Input.timer]) }
    s.pos = .idle ∧ s.bus = .free ∧
      s.inputs = Input.request ⟨0x51000000, 1, 2⟩ :: (writesAnswered 8 ++ [Input.timer]) := by decide

theorem witness_FmeanTruncatesTowardZero :
    base.cfg.wf = true ∧ ({ base.cfg with meanLo := 4, meanHi := 5 } : Config).wf = true := by decide

theorem witness_FgetReturnsElement :
    [base.win.w0, base.win.w1, base.win.w2, base.win.w3, base.win.w4][4]? = some ⟨0, 0, 0⟩ ∧ 4 < 5 := by decide

/-- The smallest difference that is a collision, and the largest that is none (V8.1, V8.3). -/
theorem witness_CcevalAnswersDetection :
    detect ⟨0, 10001, 0⟩ (mean base.cfg base.win) = true ∧ detect ⟨0, 10000, 0⟩ (mean base.cfg base.win) = false := by decide

/-- Each position of the cycle, with the port as its clause asks. -/
theorem witness_CcstepFollowsPositions :
    (at_ 0).pos = .busy 0 ∧ (at_ 1).pos = .busy 1 ∧ (at_ 2).pos = .busy 2 ∧
    (7 < 8 ∧ (at_ 10).pos = .busy (3 + 7) ∧ (at_ 10).bus = .free) ∧
    (7 < 8 ∧ (answered 10 (.ok [])).pos = .busy (3 + 7) ∧
      (answered 10 (.ok [])).bus = .answered (.write 0 []) (.ok [])) ∧
    (at_ 11).pos = .busy 11 ∧ (at_ 12).pos = .busy 12 ∧
    ([Motor.frontLeft, .frontRight, .rearLeft, .rearRight][3]? = some .rearRight ∧
      (at_ 19).pos = .busy (13 + 2 * 3) ∧ (at_ 20).pos = .busy (14 + 2 * 3) ∧ (at_ 20).bus = .free) ∧
    (7 < 8 ∧ (answered 20 (.ok [])).pos = .busy (13 + 7) ∧
      (answered 20 (.ok [])).bus = .answered (.write 0 []) (.ok [])) ∧
    (at_ 21).pos = .busy 21 ∧ (at_ 22).pos = .busy 22 := by decide

theorem witness_CccycleReadsThenFollowsCcstep :
    ((at_ 0).pos = .busy 0 ∧ (at_ 0).bus = .free) ∧
    ((answered 0 (.ok [1, 2, 3, 4, 5, 6])).pos = .busy 0 ∧
      (answered 0 (.ok [1, 2, 3, 4, 5, 6])).bus = .answered (.write 0 []) (.ok [1, 2, 3, 4, 5, 6])) ∧
    (at_ 1).pos = .busy (0 + 1) ∧ (at_ 22).pos = .busy 22 := by decide

theorem witness_QuietCycleOnlyPushes :
    let s := { base with inputs := [.request ⟨0x73000000, 0x27100000, 0⟩, .seq, .seq, .seq] }
    s.pos = .idle ∧ s.inputs = .request ⟨0x73000000, 0x27100000, 0⟩ :: .seq :: .seq :: .seq :: [] ∧
      detect (unpack 0x27100000 0) (mean s.cfg s.win) = false := by decide

/-- The longest wait that is too short, 999 ticks, with two SEQ steps; the shortest one that is enough, 1000 ticks. -/
theorem witness_CollisionReactionCompletes :
    (∃ s : State, s.pos = .idle ∧ s.bus = .free ∧ s.tmrEn = true ∧ s.tickPend = false ∧
      detect (unpack 0x27110000 0) (mean s.cfg s.win) = true ∧ 999 < 1000 ∧
      s.inputs = stopSchedule 0x27110000 0 ++ (ticks 999 ++ (List.replicate 2 Input.seq ++ []))) ∧
    (∃ s : State, s.pos = .idle ∧ s.bus = .free ∧ s.tmrEn = true ∧ s.tickPend = false ∧
      detect (unpack 0x27110000 0) (mean s.cfg s.win) = true ∧ 1000 ≤ 1000 ∧ 1000 < 1000 + 2 ^ 31 ∧
      s.inputs = reactionSchedule 0x27110000 0 1000 ++ []) :=
  ⟨⟨{ base with tmrEn := true, inputs := _ }, rfl, rfl, rfl, rfl, by decide, by decide, rfl⟩,
    { base with tmrEn := true, inputs := _ }, rfl, rfl, rfl, rfl, by decide, by decide, by decide, rfl⟩

/-- A transaction outstanding, a free port, and an answer not yet taken. -/
theorem witness_ResetInputRestoresResetState :
    let s := { at_ 3 with bus := .outstanding (channelOff testCfg 3), inputs := [.reset, .timer] }
    let t := { base with inputs := [.reset] }
    let u := { answered 3 (.ok []) with inputs := [.reset] }
    (s.inputs = .reset :: [.timer] ∧ s.bus = .outstanding (channelOff testCfg 3)) ∧
    (t.inputs = .reset :: [] ∧ t.bus = .free) ∧
    (u.inputs = .reset :: [] ∧ u.bus = .answered (.write 0 []) (.ok [])) := by decide

/-- A machine in the middle of a motor command, with the antagonist's write answered: `MOTSPD FL, FWD, 0xFFF` at position 1. -/
def midMotor : State :=
  { at_ 1 with cmd := 0x50000FFF, history := [.transaction 0x50 (antagonistOff testCfg .frontLeft .forward) (some (.ok []))] }

theorem midMotor_inProgress : inProgress midMotor = some (.motspd .frontLeft .forward 0xFFF, 1) := by decide

/-- The invariant holds in a state with a command in progress. -/
theorem midMotor_inv : midMotor.Inv where
  cfgLegal := by decide
  delays := by decide
  intervals := by decide
  pendEnabled := by decide
  doneArmed := by decide
  pos := ⟨rfl, show 1 < 2 by decide⟩
  bus := trivial
  hit i k h hc _ _ := by
    rw [midMotor_inProgress] at h
    cases h; cases hc

/-- And so does the safety property, which here is not empty: the pending write drives the channel. -/
theorem midMotor_safe : midMotor.MotorSafe where
  past := by
    refine ⟨fun op tx ans m d h _ hd => ?_, trivial⟩
    cases h
    exact absurd hd (not_drives_channelOff (Fin.isLt _))
  next := by
    intro _ tx m d h _ hd
    have h' : some (motorActive testCfg .frontLeft .forward 0xFFF) = some tx := h
    cases h'
    obtain ⟨rfl, rfl⟩ := drives_motorActive (by decide) hd
    exact ⟨0x50, [], by decide, rfl⟩

theorem witness_StepKeepsInvariant : midMotor.Inv ∧ ∃ t, step midMotor = .next t := ⟨midMotor_inv, _, rfl⟩

theorem witness_StepKeepsMotorSafety :
    midMotor.Inv ∧ midMotor.MotorSafe ∧
    drivesChannel testCfg (motorActive testCfg .frontLeft .forward 0xFFF) .frontLeft .forward ∧
    ∃ t, step midMotor = .next t :=
  ⟨midMotor_inv, midMotor_safe, ⟨0xFFF, 0, rfl, by decide⟩, _, rfl⟩

theorem witness_StickyAndEnableStayUntilReset :
    let s := { at_ 0 with cmd := 0x32000000, sticky := 0b00011, tmrEn := true }
    (∃ t, step s = .next t) ∧ s.inputs.head? ≠ some .reset ∧ s.tmrEn = true := ⟨⟨_, rfl⟩, by decide, rfl⟩

/-- A step that changes the named item, for each clause; none of them is reset. -/
theorem witness_OnlyNamedWritersChangeState :
    (after (step { base with tickPend := true, inputs := [.handler] })).map (fun t => (t.tick, t.tickPend)) = some (1, false) ∧
    (after (step { base with tmrEn := true, inputs := [.timer] })).map State.tickPend = some true ∧
    (after (step { at_ 0 with cmd := 0x01000000 })).map State.tmrEn = some true ∧
    (after (step { at_ 0 with cmd := 0x10000000 })).map (fun t => t.dly[0]?) = some (some ⟨true, false, 0⟩) ∧
    (after (step { at_ 0 with cmd := 0x11000000, dly := [⟨true, false, 0⟩] })).map (fun t => t.dly[0]?) =
      some (some ⟨true, true, 0⟩) ∧
    (after (step { at_ 0 with cmd := 0x12000000, arg0 := 7 })).map (fun t => t.ivl[0]?) = some (some ⟨true, 7, 7⟩) ∧
    (after (step { at_ 0 with cmd := 0x13000000, ivl := [⟨true, 0, 7⟩] })).map (fun t => t.ivl[0]?) =
      some (some ⟨true, 7, 7⟩) ∧
    (after (step { at_ 0 with cmd := 0x60000000, arg0 := 1 })).map State.win ≠ some base.win ∧
    (after (step { at_ 2 with cmd := 0x73000000 })).map State.ccDir = some .backward ∧
    (after (step { at_ 0 with cmd := 0x73000000, arg0 := 1 })).map State.ccLive = some ⟨1, 0, 0⟩ ∧
    (after (step { at_ 11 with cmd := 0x73000000 })).map State.ccSettle = some 1000 ∧
    (after (step { at_ 0 with cmd := 0x32000000 })).map (fun t => (t.sticky, t.resp, t.pos)) =
      some (0b00100, ⟨.unsupported, 0, 0⟩, .idle) ∧
    (after (step { base with inputs := [.request ⟨1, 2, 3⟩] })).map (fun t => (t.cmd, t.pos)) = some (1, .busy 0) := by decide

theorem witness_HistoryOnlyGrows :
    (∃ t, step midMotor = .next t ∧ t.history = midMotor.history) ∧
    ∃ t, step { at_ 21 with cmd := 0x73000000 } = .next t ∧ t.history = .indicator 0 :: [] := ⟨⟨_, rfl, rfl⟩, _, rfl, rfl⟩

/-- The machine after reset meets the invariants (the names a reader looks for; the statement is `ResetStateMeetsInvariants`). -/
theorem base_inv : base.Inv where
  cfgLegal := by decide
  delays := by decide
  intervals := by decide
  pendEnabled := by decide
  doneArmed := by decide
  pos := trivial
  bus := trivial
  hit := fun _ _ h => nomatch h

end Sys2Proof.Tests
end

section
/-! The clock's agents: what a timer event does to the state, and what a step does whose schedule entry is one
(40_clock_tick.md section 1). -/

namespace Sys2Proof.Machine

/-- R110 with the timer enabled: the event sets the pending bit, also where it is already set. -/
theorem timerEvent_of_enabled {s : State} (h : s.tmrEn = true) : timerEvent s = { s with tickPend := true } := by
  simp [timerEvent, h]

/-- R110 with the timer disabled: the event has no effect, so a pending bit that is set stays set. -/
theorem timerEvent_of_disabled {s : State} (h : s.tmrEn = false) : timerEvent s = s := by
  have kept : (s.tickPend || s.tmrEn) = s.tickPend := by rw [h, Bool.or_false]
  rw [timerEvent, kept]

/-- A timer entry of the schedule runs the timer event, whatever SEQ is doing, and is used up. -/
theorem step_timer {s : State} {rest : List Input} (h : s.inputs = .timer :: rest) :
    step s = .next (timerEvent { s with inputs := rest }) := step_scheduled h

/-- Settles O11, by the two cases of the timer's enable bit. -/
theorem timerEventSetsPendingWhenEnabled : Obligations.TimerEventSetsPendingWhenEnabled := by
  intro s rest hin
  rw [step_timer hin]
  by_cases hen : s.tmrEn = true
  · rw [timerEvent_of_enabled (s := { s with inputs := rest }) hen, if_pos hen]
  · rw [timerEvent_of_disabled (s := { s with inputs := rest }) (Bool.eq_false_of_not_eq_true hen), if_neg hen]

end Sys2Proof.Machine
end

section
/-! The comparison of 41_delay_interval.md R120: as a signed difference, and for a target armed a duration ago (R129). -/

namespace Sys2Proof.Machine

/-- Counted from the tick of arming, a target of at most half the range is reached exactly when the duration has passed, up to
half the range later: the start cancels, so it does not matter where the counter wraps (R128, R129). -/
theorem ready_armed_iff {start duration : Word} {e : Nat} (hd : duration.toNat ≤ 2 ^ 31) (he : e < duration.toNat + 2 ^ 31) :
    ready (start + duration) (start + BitVec.ofNat 32 e) = true ↔ duration.toNat ≤ e := by
  rw [ready_iff, add_sub_add_left_eq_sub, BitVec.toNat_sub, BitVec.toNat_ofNat]
  omega

/-- Settles O18: a 32-bit word is below half the range exactly when its sign bit is clear. -/
theorem readyIsSignedDifference : Obligations.ReadyIsSignedDifference := by
  intro target t
  refine ⟨rfl, ?_⟩
  rw [ready_iff, BitVec.toInt_pos_iff]
  omega

end Sys2Proof.Machine
end

section
/-! `DPOLL` (41_delay_interval.md R122): one equation for each of its five outcomes, and the case split over them. -/

namespace Sys2Proof.Machine

section
variable {slot : Nat} {s : State} {d : DelaySlot}

/-- Past the last slot. -/
theorem dpoll_noSlot (h : s.dly[slot]? = none) : exec (.dpoll slot) s = .next (raiseRange s) := by
  simp only [exec, execDpoll, h]

/-- A slot that was never armed. -/
theorem dpoll_unarmed (h : s.dly[slot]? = some d) (ha : d.armed = false) :
    exec (.dpoll slot) s = .next (raiseStatus .unarmed 0 0 s) := by
  simp only [exec, execDpoll, h, ha, if_true]

/-- A delay already reported: the tick does not matter (R123). -/
theorem dpoll_done (h : s.dly[slot]? = some d) (ha : d.armed = true) (hd : d.done = true) :
    exec (.dpoll slot) s = .next (respond .ok 0 0 s) := by
  simp only [exec, execDpoll, h, ha, hd, Bool.true_eq_false, if_false, if_true]

/-- The first poll that finds the target reached sets `done`. -/
theorem dpoll_ready (h : s.dly[slot]? = some d) (ha : d.armed = true) (hd : d.done = false)
    (hr : ready d.target s.tick = true) :
    exec (.dpoll slot) s = .next (respond .ok 0 0 { s with dly := s.dly.set slot { d with done := true } }) := by
  simp only [exec, execDpoll, h, ha, hd, now, hr, Bool.true_eq_false, Bool.false_eq_true, if_false, if_true]

/-- A poll before the target. -/
theorem dpoll_notReady (h : s.dly[slot]? = some d) (ha : d.armed = true) (hd : d.done = false)
    (hr : ready d.target s.tick = false) : exec (.dpoll slot) s = .next (respond .wouldBlock 0 0 s) := by
  simp only [exec, execDpoll, h, ha, hd, now, hr, Bool.true_eq_false, Bool.false_eq_true, if_false]

/-- Everything a `DPOLL` can do to the slots: without `OK` it writes none; with `OK` the delay was already reported and none is
written, or it is reported now. -/
theorem dpoll_cases {t : State} (h : exec (.dpoll slot) s = .next t) :
    (t.resp.status ≠ .ok ∧ t.dly = s.dly) ∨
    (∃ d, s.dly[slot]? = some d ∧ d.armed = true ∧ d.done = true ∧ t.dly = s.dly) ∨
    (∃ d, s.dly[slot]? = some d ∧ d.armed = true ∧ d.done = false ∧ t.dly = s.dly.set slot { d with done := true }) := by
  cases hs : s.dly[slot]? with
  | none => rw [dpoll_noSlot hs] at h; cases h; exact .inl ⟨nofun, rfl⟩
  | some d =>
    cases ha : d.armed with
    | false => rw [dpoll_unarmed hs ha] at h; cases h; exact .inl ⟨nofun, rfl⟩
    | true =>
      cases hd : d.done with
      | true => rw [dpoll_done hs ha hd] at h; cases h; exact .inr (.inl ⟨d, rfl, ha, hd, rfl⟩)
      | false =>
        cases hr : ready d.target s.tick with
        | true => rw [dpoll_ready hs ha hd hr] at h; cases h; exact .inr (.inr ⟨d, rfl, ha, hd, rfl⟩)
        | false => rw [dpoll_notReady hs ha hd hr] at h; cases h; exact .inl ⟨nofun, rfl⟩

/-- A poll that answers `OK` leaves its slot armed and done (R123). -/
theorem dpoll_ok_done {t : State} (h : exec (.dpoll slot) s = .next t) (hok : t.resp.status = .ok) :
    ∃ d, t.dly[slot]? = some d ∧ d.armed = true ∧ d.done = true := by
  obtain ⟨hne, -⟩ | ⟨d, hs, ha, hd, hdly⟩ | ⟨d, hs, ha, -, hdly⟩ := dpoll_cases h
  · exact absurd hok hne
  · exact ⟨d, by rw [hdly, hs], ha, hd⟩
  · have hlt := (List.getElem?_eq_some_iff.mp hs).1
    exact ⟨{ d with done := true }, by rw [hdly, List.getElem?_set_self hlt], ha, rfl⟩

end

/-- Settles O22, by `ready_armed_iff` on the side of the duration where `e` lies. -/
theorem delayReadyExactlyAfterDuration : Obligations.DelayReadyExactlyAfterDuration := by
  intro s slot start duration e hs ht hd he
  have hiff : ready (start + duration) s.tick = true ↔ duration.toNat ≤ e := by rw [ht]; exact ready_armed_iff hd he
  refine ⟨fun hlt => dpoll_notReady hs rfl rfl ?_, fun hge => dpoll_ready hs rfl rfl (hiff.mpr hge)⟩
  exact Bool.eq_false_of_not_eq_true fun hr => absurd (hiff.mp hr) (Nat.not_le.mpr hlt)

end Sys2Proof.Machine
end

section
/-! Who writes the delay slots (10_state.md R20, R25): `DNEW` and `DPOLL`, each its own slot, and reset. -/

namespace Sys2Proof.Machine

/-! ## What the operations over the bus port keep of the state -/

section
variable {α : Type} (item : State → α) {s : State} {tx : Transaction}

/-- A transaction keeps an item that is not the port, if what follows the answer keeps it. -/
theorem transact_keeps {cont : BusAnswer → State → State} (hb : ∀ u b, item { u with bus := b } = item u)
    (hk : ∀ ans u, item (cont ans u) = item u) : item (transact tx cont s) = item s := by
  obtain ⟨-, h⟩ | ⟨_, -, h⟩ | ⟨_, ans, -, h⟩ := transact_cases tx cont s
  · rw [h, hb]
  · rw [h]
  · rw [h, hk, hb]

/-- A `try` keeps an item that neither ending the command nor what follows an `Ok` writes. -/
theorem tryTransaction_keeps {k : List Byte → State → State} (hb : ∀ u b, item { u with bus := b } = item u)
    (he : ∀ e u, item (raiseStatus .busError e 0 u) = item u) (hk : ∀ r u, item (k r u) = item u) :
    item (tryTransaction tx k s) = item s :=
  transact_keeps item hb fun ans u =>
    match ans with
    | .ok r => hk r u
    | .err e => he e u

/-- A sequence keeps an item that neither its positions nor its two ends write. -/
theorem writeSequence_keeps {base : Nat} {txs : List Transaction} {done : State → State} {fail : Word → Nat → State → State}
    (hb : ∀ u b, item { u with bus := b } = item u) (hg : ∀ k u, item (goto k u) = item u)
    (hd : ∀ u, item (done u) = item u) (hf : ∀ e k u, item (fail e k u) = item u) :
    item (writeSequence base txs done fail s) = item s := by
  cases h : txs[s.pos.index - base]? with
  | none => rw [writeSequence_none rfl h, hd]
  | some tx =>
    rw [writeSequence_eq_transact rfl h]
    refine transact_keeps item hb fun ans u => ?_
    cases ans with
    | err e => exact hf e _ u
    | ok r =>
      show item (if _ then _ else _) = _
      split
      · exact hg _ u
      · exact hd u

end

/-! ## The steps of SEQ -/

/-- No position of the control cycle writes a delay slot: the settle wait uses none (R124). -/
theorem cycleFrom_dly (s : State) : (cycleFrom s).dly = s.dly := by
  simp only [cycleFrom]
  split_ifs
  · unfold ccDetect; split <;> rfl
  · rfl
  · exact writeSequence_keeps State.dly (fun _ _ => rfl) (fun _ _ => rfl) (fun _ => rfl) (fun _ _ _ => rfl)
  · exact ccArmSettle_dly s
  · unfold ccSettleWait; split <;> rfl
  · exact writeSequence_keeps State.dly (fun _ _ => rfl) (fun _ _ => rfl) (fun _ => rfl) (fun _ _ _ => rfl)
  · rfl
  · rfl

/-- What command `i` at tick `tick` can make of the delay slots `dly` (R20, R121, R122). -/
inductive DelaysBecome (i : Instr) (tick : Word) (dly dly' : List DelaySlot) : Prop where
  /-- No slot is written. -/
  | kept (h : dly' = dly)
  /-- `DNEW` arms its slot. -/
  | armed (slot : Nat) (duration : Word) (hi : i = .dnew slot duration)
      (h : dly' = dly.set slot ⟨true, false, tick + duration⟩)
  /-- `DPOLL` sets `done` in its slot, which was armed and not done. -/
  | reported (slot : Nat) (d : DelaySlot) (hi : i = .dpoll slot) (hs : dly[slot]? = some d) (ha : d.armed = true)
      (hd : d.done = false) (h : dly' = dly.set slot { d with done := true })

/-- `DNEW` arms its slot or raises RANGE. -/
theorem dnew_delaysBecome {slot : Nat} {duration : Word} {s t : State} (h : exec (.dnew slot duration) s = .next t) :
    DelaysBecome (.dnew slot duration) s.tick s.dly t.dly := by
  simp only [exec, execDnew] at h
  split at h
  · cases h; exact .kept rfl
  · cases h; exact .armed slot duration rfl rfl

/-- `DPOLL` reports its slot or writes none. -/
theorem dpoll_delaysBecome {slot : Nat} {s t : State} (h : exec (.dpoll slot) s = .next t) :
    DelaysBecome (.dpoll slot) s.tick s.dly t.dly := by
  obtain ⟨-, hdly⟩ | ⟨_, -, -, -, hdly⟩ | ⟨d, hs, ha, hd, hdly⟩ := dpoll_cases h
  · exact .kept hdly
  · exact .kept hdly
  · exact .reported slot d rfl hs ha hd hdly

/-- Every command's step: only `DNEW` and `DPOLL` write a delay slot. -/
theorem exec_delaysBecome {i : Instr} {s t : State} (h : exec i s = .next t) : DelaysBecome i s.tick s.dly t.dly := by
  have ended : ∀ {u}, (Host.Outcome.next u : Outcome) = .next t → u.dly = s.dly → DelaysBecome i s.tick s.dly t.dly :=
    fun h hu => by cases h; exact .kept hu
  have tried : ∀ {tx k}, (Host.Outcome.next (tryTransaction tx k s) : Outcome) = .next t →
      (∀ r u, (k r u).dly = u.dly) → DelaysBecome i s.tick s.dly t.dly :=
    fun h hk => ended h (tryTransaction_keeps State.dly (fun _ _ => rfl) (fun _ _ => rfl) hk)
  have wrote : ∀ {txs done fail}, (Host.Outcome.next (writeSequence 0 txs done fail s) : Outcome) = .next t →
      (∀ u, (done u).dly = u.dly) → (∀ e k u, (fail e k u).dly = u.dly) → DelaysBecome i s.tick s.dly t.dly :=
    fun h hd hf => ended h (writeSequence_keeps State.dly (fun _ _ => rfl) (fun _ _ => rfl) hd hf)
  cases i <;> simp only [exec] at h
  case dnew => exact dnew_delaysBecome h
  case dpoll => exact dpoll_delaysBecome h
  -- no transaction
  case clkinit | time | stat | acctemp | magtemp | fpush | fmean | cceval => exact ended h rfl
  case inew => unfold execInew at h; split at h <;> exact ended h rfl
  case fget => unfold execFget at h; split at h <;> exact ended h rfl
  case ipoll =>
    unfold execIpoll at h
    split at h
    · exact ended h rfl
    · split_ifs at h <;> exact ended h rfl
  -- one transaction
  case accinit | accrd | magrd | pwminit => exact tried h fun _ _ => rfl
  case wrreg => unfold execWrreg at h; split at h; exacts [ended h rfl, tried h fun _ _ => rfl]
  case rdreg => unfold execRdreg at h; split at h; exacts [ended h rfl, tried h fun _ _ => rfl]
  case pwmset => unfold execPwmset at h; split at h; exacts [ended h rfl, tried h fun _ _ => rfl]
  -- a sequence of them
  case maginit | motoff => exact wrote h (fun _ => rfl) fun _ _ _ => rfl
  case pwmsetm => unfold execPwmsetm at h; split at h; exacts [ended h rfl, wrote h (fun _ => rfl) fun _ _ _ => rfl]
  case motspd => unfold execMotspd at h; split at h; exacts [ended h rfl, wrote h (fun _ => rfl) fun _ _ _ => rfl]
  case motall => unfold execMotall at h; split at h; exacts [ended h rfl, wrote h (fun _ => rfl) fun _ _ _ => rfl]
  -- the control cycle
  case ccstep => unfold execCcstep at h; split at h; exacts [ended h rfl, ended h (cycleFrom_dly s)]
  case cccycle => unfold execCccycle at h; split at h; exacts [tried h fun _ _ => rfl, ended h (cycleFrom_dly s)]

/-- The command in progress, from the latched words and the position. -/
theorem inProgress_busy {s : State} {k : Nat} {i : Instr} (hp : s.pos = .busy k) (hd : decode (latched s) = .ok i) :
    inProgress s = some (i, k) := by simp only [inProgress, hp, hd]

/-- SEQ's step writes the delay slots as the command in progress does, or not at all. -/
theorem seqStep_delays {s t : State} (h : seqStep s = .next t) :
    t.dly = s.dly ∨ ∃ i k, inProgress s = some (i, k) ∧ DelaysBecome i s.tick s.dly t.dly := by
  obtain ⟨-, hs⟩ | ⟨k, i, hp, hd, hs⟩ | ⟨_, _, -, -, hs⟩ := seqStep_cases s <;> rw [hs] at h
  · cases h; exact .inl rfl
  · exact .inr ⟨i, k, inProgress_busy hp hd, exec_delaysBecome h⟩
  · cases h; exact .inl rfl

/-! ## The steps of the machine -/

/-- The other agents, reset aside, write no delay slot. -/
theorem agentStep_keeps_dly {i : Input} {s t : State} (hseq : i ≠ .seq) (hreset : i ≠ .reset)
    (h : agentStep i s = .next t) : t.dly = s.dly := by
  cases i with
  | timer => cases h; exact timerEvent_dly s
  | handler => cases h; exact tickHandler_dly s
  | reset => exact absurd rfl hreset
  | request r => cases h; unfold acceptRequest; split <;> rfl
  | bus ans =>
    obtain ⟨_, -, -, rfl⟩ | ⟨-, rfl⟩ := busStep_next h
    · rfl
    · rfl
  | lateBus ans => cases h; rfl
  | seq => exact absurd rfl hseq

/-- A step other than reset writes the delay slots as the command in progress does, or not at all. -/
theorem step_delays {s t : State} (h : step s = .next t) (hreset : s.inputs.head? ≠ some .reset) :
    t.dly = s.dly ∨ ∃ i k, inProgress s = some (i, k) ∧ DelaysBecome i s.tick s.dly t.dly := by
  obtain ⟨-, hs⟩ | ⟨i, rest, hin, hs⟩ := step_cases s <;> rw [hs] at h
  · exact seqStep_delays h
  · have hi : i ≠ .reset := by rintro rfl; exact hreset (by rw [hin]; rfl)
    by_cases hseq : i = .seq
    · subst hseq; exact seqStep_delays (s := { s with inputs := rest }) h
    · exact .inl (agentStep_keeps_dly (s := { s with inputs := rest }) hseq hi h)

/-- A delay that has been reported stays as it is until its slot is armed again or reset comes (R123): `DPOLL` of its slot finds
it done, and every other writer writes another slot. -/
theorem step_keeps_done_delay {s t : State} {slot : Nat} {d : DelaySlot} (hs : s.dly[slot]? = some d) (hd : d.done = true)
    (h : step s = .next t) (hreset : s.inputs.head? ≠ some .reset)
    (hnew : ∀ duration k, inProgress s ≠ some (.dnew slot duration, k)) : t.dly[slot]? = some d := by
  obtain hkept | ⟨i, k, hi, hbecome⟩ := step_delays h hreset
  · rw [hkept, hs]
  cases hbecome with
  | kept hdly => rw [hdly, hs]
  | armed slot' duration hinstr hdly =>
    have hne : slot' ≠ slot := by rintro rfl; exact hnew duration k (hinstr ▸ hi)
    rw [hdly, List.getElem?_set_ne hne, hs]
  | reported slot' d' _ hs' _ hd' hdly =>
    have hne : slot' ≠ slot := by
      rintro rfl
      obtain rfl : d' = d := Option.some.inj (hs'.symm.trans hs)
      rw [hd] at hd'; cases hd'
    rw [hdly, List.getElem?_set_ne hne, hs]

/-- Settles O21, clause by clause: the slot an `OK` leaves, the answer of a slot that is done, and the writers of a slot. -/
theorem doneDelayStaysReady : Obligations.DoneDelayStaysReady := by
  intro s slot
  refine ⟨fun t => dpoll_ok_done, fun d hs ha hd => ⟨dpoll_done hs ha hd, fun t h hreset hnew => ?_⟩⟩
  exact step_keeps_done_delay hs hd h hreset hnew

end Sys2Proof.Machine
end

section
/-! Two bytes read as one signed word, and the accelerometer's decoding (43_sensor_drivers.md R153). -/

namespace Sys2Proof.Machine

/-- The word of a high and a low byte, as an unsigned number. -/
theorem toNat_append_bytes (high low : Byte) : (high ++ low : Half).toNat = 256 * high.toNat + low.toNat := by
  rw [BitVec.toNat_append, ← Nat.shiftLeft_add_eq_or_of_lt low.isLt, Nat.shiftLeft_eq, Nat.mul_comm]

/-- The word of a high and a low byte, as a signed number: the two's complement reading of its unsigned one. -/
theorem toInt_append_bytes (high low : Byte) :
    (high ++ low : Half).toInt = Int.bmod (256 * high.toNat + low.toNat) (2 ^ 16) := by
  rw [BitVec.toInt_eq_toNat_bmod, toNat_append_bytes]
  push_cast
  rfl

/-- `acc_decode` of six bytes: in each pair the second byte is the high one. -/
theorem accDecode_bytes (r0 r1 r2 r3 r4 r5 : Byte) :
    accDecode [r0, r1, r2, r3, r4, r5] = ⟨r1 ++ r0, r3 ++ r2, r5 ++ r4⟩ := rfl

/-- Settles O32: each axis is a word of a high and a low byte, so its signed value is that word's. -/
theorem accelerometerDecoding : Obligations.AccelerometerDecoding := by
  intro r0 r1 r2 r3 r4 r5
  rw [accDecode_bytes]
  exact ⟨rfl, toInt_append_bytes r1 r0, toInt_append_bytes r3 r2, toInt_append_bytes r5 r4⟩

end Sys2Proof.Machine
end

section
/-! The filter's push and mean (46_sample_filter.md R202, R204). A sum of at most five 16-bit samples, divided by 5, is again a
16-bit number, so an axis of the mean is the exact quotient and never a wrapped one. -/

namespace Sys2Proof.Machine

/-! ## The exact sum -/

/-- A sum of 16-bit numbers lies in the 16-bit range scaled by how many there are. -/
theorem sum_toInt_bounds (vals : List Half) :
    -32768 * (vals.length : Int) ≤ (vals.map BitVec.toInt).sum ∧
      (vals.map BitVec.toInt).sum ≤ 32767 * (vals.length : Int) := by
  have lower := List.card_nsmul_le_sum (vals.map BitVec.toInt) (-32768) (List.forall_mem_map.mpr fun v _ => v.le_toInt)
  have upper := List.sum_le_card_nsmul (vals.map BitVec.toInt) 32767 (List.forall_mem_map.mpr fun _ _ => BitVec.toInt_le)
  rw [List.length_map, nsmul_eq_mul, mul_comm] at lower upper
  exact ⟨lower, upper⟩

/-- The mean sums no more samples than the window holds, whatever `MEAN_LO` and `MEAN_HI` are. -/
theorem length_summedSamples_le (cfg : Config) (w : Window) : (summedSamples cfg w).length ≤ 5 :=
  (List.drop_sublist _ _).length_le.trans (List.take_sublist _ _).length_le

/-! ## The mean -/

/-- An axis of at most five samples is the exact quotient: both bounds of the sum, divided by 5, are 16-bit numbers. -/
theorem toInt_meanAxis {vals : List Half} (h : vals.length ≤ 5) :
    (meanAxis vals).toInt = (vals.map BitVec.toInt).sum.tdiv 5 := by
  obtain ⟨lower, upper⟩ := sum_toInt_bounds vals
  have lower5 : -32768 ≤ (vals.map BitVec.toInt).sum.tdiv 5 := Int.le_tdiv_of_mul_le (by decide) (by omega)
  have upper5 : (vals.map BitVec.toInt).sum.tdiv 5 ≤ 32767 :=
    Int.tdiv_le_tdiv (b := 32767 * 5) (by decide) (by omega)
  exact BitVec.toInt_ofInt_eq_self (by decide) lower5 (Int.lt_add_one_of_le upper5)

/-- R204 for one axis `f` of the samples the mean sums. -/
theorem toInt_meanAxis_summedSamples (cfg : Config) (w : Window) (f : Sample → Half) :
    (meanAxis ((summedSamples cfg w).map f)).toInt = ((summedSamples cfg w).map fun v => (f v).toInt).sum.tdiv 5 := by
  have hlen : ((summedSamples cfg w).map f).length ≤ 5 := by rw [List.length_map]; exact length_summedSamples_le cfg w
  rw [toInt_meanAxis hlen, List.map_map]
  rfl

/-! ## The two commands -/

/-- The second result word of a sample: 16 zero bits above the Z axis (R83). -/
theorem packHigh_eq_append (smp : Sample) : packHigh smp = 0#16 ++ smp.z :=
  BitVec.setWidth_eq_append (by decide)

/-- What ending a command with a sample writes, field by field (R83). -/
theorem respondSample_eq (smp : Sample) (s : State) :
    respondSample smp s = { s with resp := ⟨.ok, smp.y ++ smp.x, 0#16 ++ smp.z⟩, respValid := true, pos := .idle } := by
  rw [respondSample, packHigh_eq_append]
  rfl

/-- `FMEAN` answers the mean of the window under the parameters, and writes nothing else (R203). -/
theorem exec_fmean (s : State) : exec .fmean s = .next (respondSample (mean s.cfg s.win) s) := rfl

/-- `FPUSH` writes the pushed window and ends with OK (R201). -/
theorem exec_fpush (smp : Sample) (s : State) :
    exec (.fpush smp) s = .next (respond .ok 0 0 { s with win := s.win.push smp }) := rfl

/-- Settles O46: the answer is the mean, and each of its axes is the exact quotient of that axis' sum. -/
theorem fmeanTruncatesTowardZero : Obligations.FmeanTruncatesTowardZero := by
  intro s _
  have axis := toInt_meanAxis_summedSamples s.cfg s.win
  refine ⟨(mean s.cfg s.win).x, (mean s.cfg s.win).y, (mean s.cfg s.win).z, ?_, axis Sample.x, axis Sample.y, axis Sample.z⟩
  rw [exec_fmean, respondSample_eq]

/-- Settles O44: the window `FPUSH` writes is the pushed one, and ending with OK writes the response alone. -/
theorem fpushShiftsWindow : Obligations.FpushShiftsWindow := by
  intro smp s
  rw [exec_fpush, Window.push]
  rfl

end Sys2Proof.Machine
end

section
/-! The detector (47_collision_fsm.md R217). -/

namespace Sys2Proof.Machine

/-- One axis exceeds the threshold exactly when the exact signed difference does: it is taken on integers, so it cannot wrap. -/
theorem axisExceeds_iff (live base : Half) : axisExceeds live base = true ↔ live.toInt - base.toInt > 10000 := decide_eq_true_iff

/-- A collision is detected exactly when some axis exceeds the threshold. -/
theorem detect_iff_axisExceeds (live base : Sample) : detect live base = true ↔
    axisExceeds live.x base.x = true ∨ axisExceeds live.y base.y = true ∨ axisExceeds live.z base.z = true := by
  rw [detect, Bool.or_eq_true, Bool.or_eq_true, or_assoc]

/-- Settles O48: some axis exceeds the threshold, and each does by its exact signed difference. -/
theorem detectIsSignedStrict : Obligations.DetectIsSignedStrict := by
  intro live base
  rw [detect_iff_axisExceeds, axisExceeds_iff, axisExceeds_iff, axisExceeds_iff]

end Sys2Proof.Machine
end

section
/-! The failure entry (60_exceptions.md R243): `raise` against R31's numbering of the sticky bits. -/

namespace Sys2Proof.Machine

/-- The sticky bit of each failure status is the one at its number in R31. -/
theorem stickyBit_eq_twoPow : ∀ p ∈ [(Status.busError, 0), (Status.range, 1), (Status.unsupported, 2), (Status.unarmed, 3),
    (Status.illegal, 4)], stickyBit p.1 = BitVec.twoPow 5 p.2 := by decide

/-- Settles O10: `raise` writes its four fields only, and the bit it sets is R31's. -/
theorem raiseSetsStickyAndIdles : Obligations.RaiseSetsStickyAndIdles := by
  intro st b info r1 s hb
  rw [raiseStatus, setSticky, stickyBit_eq_twoPow (st, b) hb]

end Sys2Proof.Machine
end

section
/-! The decoder against the encoder (30_encoding.md R82, R88): the packed bytes of the formats, and what a decoded request says about
its command word. -/

namespace Sys2Proof

/-! ## Bytes packed from narrower fields (R82) -/

/-- A byte with a clear top bit is its low seven bits: the device field of `WRREG` and `RDREG`. -/
theorem packDev_extract {v : Byte} (h : v.extractLsb' 7 1 = 0) : (0#1 ++ v.extractLsb' 0 7 : Byte) = v := by
  revert v; decide

/-- A byte with a clear high nibble is its low one: the count of `WRREG`, the rate of `ACCINIT`. -/
theorem packNibble_extract {v : Byte} (h : v.extractLsb' 4 4 = 0) : (0#4 ++ v.extractLsb' 0 4 : Byte) = v := by
  revert v; decide

/-- Flag, three clear bits and count: field `c` of `RDREG`. -/
theorem packFlag_extract {v : Byte} (h : v.extractLsb' 4 3 = 0) :
    (BitVec.ofBool (v.getLsbD 7) ++ 0#3 ++ v.extractLsb' 0 4 : Byte) = v := by
  revert v; decide

/-- Five clear bits and the rate of `MAGINIT`. -/
theorem packRate_extract {v : Byte} (h : v.extractLsb' 3 5 = 0) : (0#5 ++ v.extractLsb' 0 3 : Byte) = v := by
  revert v; decide

/-- Five clear bits, motor and direction: field `a` of `MOTSPD` (R85). -/
theorem packMotor_extract {v : Byte} (h : v.extractLsb' 3 5 = 0) :
    (0#5 ++ (motorOfBits (v.extractLsb' 1 2)).bits ++ BitVec.ofBool (directionOfBit (v.getLsbD 0)).bit : Byte) = v := by
  revert v; decide

/-- Seven clear bits and the direction: field `a` of `MOTALL` (R85). -/
theorem packDirection_extract {v : Byte} (h : v.extractLsb' 1 7 = 0) :
    (0#7 ++ BitVec.ofBool (directionOfBit (v.getLsbD 0)).bit : Byte) = v := by
  revert v; decide

section
variable (dev : DevAddr) (v : BitVec 4) (rate : BitVec 3) (ai : Bool) (m : Motor) (d : Direction)

theorem extract_packDev : (0#1 ++ dev : Byte).extractLsb' 7 1 = 0 ∧ (0#1 ++ dev : Byte).extractLsb' 0 7 = dev := by
  revert dev; decide

theorem extract_packNibble : (0#4 ++ v : Byte).extractLsb' 4 4 = 0 ∧ (0#4 ++ v : Byte).extractLsb' 0 4 = v := by
  revert v; decide

theorem extract_packFlag : (BitVec.ofBool ai ++ 0#3 ++ v : Byte).extractLsb' 4 3 = 0 ∧
    (BitVec.ofBool ai ++ 0#3 ++ v : Byte).getLsbD 7 = ai ∧ (BitVec.ofBool ai ++ 0#3 ++ v : Byte).extractLsb' 0 4 = v := by
  revert ai v; decide

theorem extract_packRate : (0#5 ++ rate : Byte).extractLsb' 3 5 = 0 ∧ (0#5 ++ rate : Byte).extractLsb' 0 3 = rate := by
  revert rate; decide

theorem extract_packMotor : (0#5 ++ m.bits ++ BitVec.ofBool d.bit : Byte).extractLsb' 3 5 = 0 ∧
    motorOfBits ((0#5 ++ m.bits ++ BitVec.ofBool d.bit : Byte).extractLsb' 1 2) = m ∧
    directionOfBit ((0#5 ++ m.bits ++ BitVec.ofBool d.bit : Byte).getLsbD 0) = d := by
  cases m <;> cases d <;> decide

theorem extract_packDirection : (0#7 ++ BitVec.ofBool d.bit : Byte).extractLsb' 1 7 = 0 ∧
    directionOfBit ((0#7 ++ BitVec.ofBool d.bit : Byte).getLsbD 0) = d := by
  cases d <;> decide

end

/-- A count that fits its field is read back from it. -/
theorem toNat_ofNat_of_fits {w n : Nat} (h : n < 2 ^ w) : (BitVec.ofNat w n).toNat = n := by
  rw [BitVec.toNat_ofNat, Nat.mod_eq_of_lt h]

/-! ## Decoding an encoding -/

/-- A check that is met lets the command through. -/
@[simp] theorem requireZero_true (op : Byte) (i : Instr) : requireZero true op i = .ok i := rfl

@[simp] theorem decodeNoFields_cmdWord (op : Byte) (i : Instr) : decodeNoFields (cmdWord op 0#8 0#8 0#8) i = .ok i := by
  simp [decodeNoFields]

@[simp] theorem decodeAField_cmdWord (op a : Byte) (i : Instr) : decodeAField (cmdWord op a 0#8 0#8) i = .ok i := by
  simp [decodeAField]

/-- Settles O2: each format's fields are read back from the bytes they are packed in. -/
theorem decodeEncodeRoundTrip : Obligations.DecodeEncodeRoundTrip := by
  intro i hwf
  cases i with
  | clkinit | time | stat | accrd | acctemp | magrd | magtemp | pwminit | motoff | fmean | cccycle =>
    simp [encode, plainRequest, decode]
  | fpush s | cceval s | ccstep s => simp [encode, decode]
  | pwmsetm mask on off => simp [encode, decode]
  | dnew slot v | inew slot v | pwmset slot on off =>
    have hslot : slot < 256 := of_decide_eq_true hwf
    simp [encode, decode, hslot]
  | dpoll slot | ipoll slot | fget slot =>
    have hslot : slot < 256 := of_decide_eq_true hwf
    simp [encode, plainRequest, decode, hslot]
  | wrreg dev reg n data =>
    have hn : n < 2 ^ 4 := of_decide_eq_true hwf
    obtain ⟨hdev0, hdev⟩ := extract_packDev dev
    obtain ⟨hn0, hn'⟩ := extract_packNibble (BitVec.ofNat 4 n)
    simp only [encode, decode, opField_cmdWord, aField_cmdWord, bField_cmdWord, cField_cmdWord, hdev0, hdev, hn0, hn',
      toNat_ofNat_of_fits hn]
    rfl
  | rdreg dev reg ai n =>
    have hn : n < 2 ^ 4 := of_decide_eq_true hwf
    obtain ⟨hdev0, hdev⟩ := extract_packDev dev
    obtain ⟨hn0, hai, hn'⟩ := extract_packFlag (BitVec.ofNat 4 n) ai
    simp only [encode, plainRequest, decode, opField_cmdWord, aField_cmdWord, bField_cmdWord, cField_cmdWord, hdev0, hdev, hn0,
      hai, hn', toNat_ofNat_of_fits hn]
    rfl
  | accinit rate =>
    obtain ⟨h0, hrate⟩ := extract_packNibble rate
    simp only [encode, plainRequest, decode, opField_cmdWord, aField_cmdWord, bField_cmdWord, cField_cmdWord, h0, hrate]
    rfl
  | maginit rate =>
    obtain ⟨h0, hrate⟩ := extract_packRate rate
    simp only [encode, plainRequest, decode, opField_cmdWord, aField_cmdWord, bField_cmdWord, cField_cmdWord, h0, hrate]
    rfl
  | motspd m d speed =>
    obtain ⟨h0, hm, hd⟩ := extract_packMotor m d
    simp only [encode, plainRequest, decode, opField_cmdWordImm, aField_cmdWordImm, imm16_cmdWordImm, h0, hm, hd]
    rfl
  | motall d speed =>
    obtain ⟨h0, hd⟩ := extract_packDirection d
    simp only [encode, plainRequest, decode, opField_cmdWordImm, aField_cmdWordImm, imm16_cmdWordImm, h0, hd]
    rfl

/-! ## Encoding what was decoded -/

/-- A command without fields is decoded only from its opcode and three zero bytes. -/
theorem word_of_decodeNoFields {w : Word} {op : Byte} {i j : Instr} (hop : opField w = op)
    (h : decodeNoFields w i = .ok j) : cmdWord op 0 0 0 = w := by
  obtain ⟨hz, -⟩ := requireZero_ok h
  simp only [Bool.and_eq_true, beq_iff_eq] at hz
  obtain ⟨⟨ha, hb⟩, hc⟩ := hz
  rw [← cmdWord_fields w, hop, ha, hb, hc]

/-- A command with field `a` alone is decoded only where the bytes below it are zero. -/
theorem word_of_decodeAField {w : Word} {op : Byte} {i j : Instr} (hop : opField w = op) (h : decodeAField w i = .ok j) :
    cmdWord op (BitVec.ofNat 8 (aField w).toNat) 0 0 = w ∧ j = i := by
  obtain ⟨hz, hj⟩ := requireZero_ok h
  simp only [Bool.and_eq_true, beq_iff_eq] at hz
  obtain ⟨hb, hc⟩ := hz
  refine ⟨?_, hj⟩
  conv_rhs => rw [← cmdWord_fields w, hop, hb, hc]
  rw [BitVec.ofNat_toNat, BitVec.setWidth_eq]

/-- A command word is its opcode, field `a` and immediate (R81). -/
theorem cmdWordImm_fields (w : Word) : cmdWordImm (opField w) (aField w) (imm16 w) = w := by
  have hhigh : (imm16 w).high = bField w := by simp [imm16_eq, bField, Half.high]
  have hlow : (imm16 w).low = cField w := by simp [imm16_eq, cField, Half.low]
  rw [cmdWordImm_eq, hhigh, hlow, cmdWord_fields]

/-- What a request decodes to is well formed, and its encoding has the request's command word. -/
theorem encode_cmd_of_decode {r : Request} {i : Instr} (h : decode r = .ok i) : i.wf = true ∧ (encode i).cmd = r.cmd := by
  have hop := op_of_decode h
  cases i <;> simp only [decode, hop, Instr.op] at h
  case clkinit | time | stat | accrd | acctemp | magrd | magtemp | pwminit | motoff | fmean | cccycle | fpush | cceval | ccstep =>
    exact ⟨rfl, word_of_decodeNoFields hop h⟩
  case dnew | dpoll | inew | ipoll | pwmset | fget =>
    obtain ⟨hw, hi⟩ := word_of_decodeAField hop h
    cases hi
    exact ⟨decide_eq_true (aField r.cmd).isLt, hw⟩
  all_goals
    obtain ⟨hz, hi⟩ := requireZero_ok h
    simp only [Bool.and_eq_true, beq_iff_eq] at hz
    cases hi
  case wrreg =>
    obtain ⟨ha, hc⟩ := hz
    refine ⟨decide_eq_true (BitVec.isLt _), ?_⟩
    simp only [encode, BitVec.ofNat_toNat, BitVec.setWidth_eq, packDev_extract ha, packNibble_extract hc]
    conv_rhs => rw [← cmdWord_fields r.cmd, hop]
    rfl
  case rdreg =>
    obtain ⟨ha, hc⟩ := hz
    refine ⟨decide_eq_true (BitVec.isLt _), ?_⟩
    simp only [encode, plainRequest, BitVec.ofNat_toNat, BitVec.setWidth_eq, packDev_extract ha, packFlag_extract hc]
    conv_rhs => rw [← cmdWord_fields r.cmd, hop]
    rfl
  case accinit =>
    obtain ⟨⟨ha, hb⟩, hc⟩ := hz
    refine ⟨rfl, ?_⟩
    simp only [encode, plainRequest, packNibble_extract hc]
    conv_rhs => rw [← cmdWord_fields r.cmd, hop, ha, hb]
    rfl
  case maginit =>
    obtain ⟨⟨ha, hb⟩, hc⟩ := hz
    refine ⟨rfl, ?_⟩
    simp only [encode, plainRequest, packRate_extract hc]
    conv_rhs => rw [← cmdWord_fields r.cmd, hop, ha, hb]
    rfl
  case pwmsetm =>
    refine ⟨rfl, ?_⟩
    conv_rhs => rw [← cmdWordImm_fields r.cmd, hop, hz]
    rfl
  case motspd =>
    refine ⟨rfl, ?_⟩
    simp only [encode, plainRequest, packMotor_extract hz]
    conv_rhs => rw [← cmdWordImm_fields r.cmd, hop]
    rfl
  case motall =>
    refine ⟨rfl, ?_⟩
    simp only [encode, plainRequest, packDirection_extract hz]
    conv_rhs => rw [← cmdWordImm_fields r.cmd, hop]
    rfl

/-- Settles O3: with the request's command word the encoding's operand words make the encoding, which decodes back (O2). -/
theorem decodedCommandReencodes : Obligations.DecodedCommandReencodes := by
  intro r i h
  obtain ⟨hwf, hcmd⟩ := encode_cmd_of_decode h
  refine ⟨hwf, hcmd, ?_⟩
  rw [← hcmd]
  exact decodeEncodeRoundTrip i hwf

end Sys2Proof
end

section
/-! The decoder against the opcode table (30_encoding.md R88, R89): a word decodes exactly where it selects a row. -/

namespace Sys2Proof

/-! ## The rows -/

/-- Every command's encoding selects the row that bears its mnemonic. -/
theorem encode_selects_row (i : Instr) : Laws.EncodesRow.Statement i := by
  cases i with
  | clkinit => exact Laws.EncodesRow.clkinit
  | time => exact Laws.EncodesRow.time
  | stat => exact Laws.EncodesRow.stat
  | dnew slot duration => exact Laws.EncodesRow.dnew slot duration
  | dpoll slot => exact Laws.EncodesRow.dpoll slot
  | inew slot period => exact Laws.EncodesRow.inew slot period
  | ipoll slot => exact Laws.EncodesRow.ipoll slot
  | wrreg dev reg n data => exact Laws.EncodesRow.wrreg dev reg n data
  | rdreg dev reg ai n => exact Laws.EncodesRow.rdreg dev reg ai n
  | accinit rate => exact Laws.EncodesRow.accinit rate
  | accrd => exact Laws.EncodesRow.accrd
  | acctemp => exact Laws.EncodesRow.acctemp
  | maginit rate => exact Laws.EncodesRow.maginit rate
  | magrd => exact Laws.EncodesRow.magrd
  | magtemp => exact Laws.EncodesRow.magtemp
  | pwminit => exact Laws.EncodesRow.pwminit
  | pwmset ch on off => exact Laws.EncodesRow.pwmset ch on off
  | pwmsetm mask on off => exact Laws.EncodesRow.pwmsetm mask on off
  | motspd motor dir speed => exact Laws.EncodesRow.motspd motor dir speed
  | motoff => exact Laws.EncodesRow.motoff
  | motall dir speed => exact Laws.EncodesRow.motall dir speed
  | fpush smp => exact Laws.EncodesRow.fpush smp
  | fmean => exact Laws.EncodesRow.fmean
  | fget idx => exact Laws.EncodesRow.fget idx
  | cceval smp => exact Laws.EncodesRow.cceval smp
  | cccycle => exact Laws.EncodesRow.cccycle
  | ccstep smp => exact Laws.EncodesRow.ccstep smp

/-- A request that decodes selects a row with the command's mnemonic: the row of the encoding, whose command word it has (O3). -/
theorem row_of_decode {r : Request} {i : Instr} (h : decode r = .ok i) :
    ∃ row ∈ opcodeTable, row.mnemonic = i.mnemonic ∧ r.cmd &&& row.mask = row.pattern := by
  obtain ⟨row, hrow, hname, hsel⟩ := encode_selects_row i
  rw [(encode_cmd_of_decode h).2] at hsel
  exact ⟨row, hrow, hname, beq_iff_eq.mp hsel⟩

/-- The bits on which two rows are both fixed tell the rows apart. -/
theorem opcodeTable_distinguished : opcodeTable.Pairwise fun p q => p.pattern &&& q.mask ≠ q.pattern &&& p.mask := by
  decide

/-- A word that selects two rows has the patterns of both where both are fixed. -/
theorem patterns_agree_of_selects {w : Word} {p q : TableRow} (hp : w &&& p.mask = p.pattern) (hq : w &&& q.mask = q.pattern) :
    p.pattern &&& q.mask = q.pattern &&& p.mask := by
  rw [← hp, ← hq, BitVec.and_assoc, BitVec.and_assoc, BitVec.and_comm p.mask]

/-! ## What selecting a row says of the word's fields -/

/-- A mask, field by field, fixes the fields under it. -/
theorem fields_of_selects {w mask pattern : Word} (m3 m2 m1 m0 p3 p2 p1 p0 : Byte) (h : w &&& mask = pattern)
    (hm : mask = cmdWord m3 m2 m1 m0) (hp : pattern = cmdWord p3 p2 p1 p0) :
    opField w &&& m3 = p3 ∧ aField w &&& m2 = p2 ∧ bField w &&& m1 = p1 ∧ cField w &&& m0 = p0 := by
  rw [hm, hp, ← cmdWord_fields w, cmdWord_and] at h
  exact cmdWord_inj h

/-- A field under a mask of all ones. -/
theorem and_full (v : Byte) : v &&& 0xFF = v := BitVec.and_allOnes

/-! The must-be-zero bits of a field, as its row's mask gives them and as the decoder checks them (R82). -/

theorem extract_of_mask80 {v : Byte} (h : v &&& 0x80 = 0) : v.extractLsb' 7 1 = 0 := by revert v; decide
theorem extract_of_maskF0 {v : Byte} (h : v &&& 0xF0 = 0) : v.extractLsb' 4 4 = 0 := by revert v; decide
theorem extract_of_mask70 {v : Byte} (h : v &&& 0x70 = 0) : v.extractLsb' 4 3 = 0 := by revert v; decide
theorem extract_of_maskF8 {v : Byte} (h : v &&& 0xF8 = 0) : v.extractLsb' 3 5 = 0 := by revert v; decide
theorem extract_of_maskFE {v : Byte} (h : v &&& 0xFE = 0) : v.extractLsb' 1 7 = 0 := by revert v; decide

/-! ## Decoding a word that selects a row -/

section
variable {w pattern a0 a1 : Word}

/-- A row that fixes all bits is selected by one word, with three zero bytes below the opcode. -/
theorem decode_of_selects_noFields {i : Instr} (op : Byte) (h : w &&& 0xFFFFFFFF = pattern) (hp : pattern = cmdWord op 0 0 0)
    (hd : decode ⟨cmdWord op 0 0 0, a0, a1⟩ = .ok i) : decode ⟨w, a0, a1⟩ = .ok i := by
  have hw : w = cmdWord op 0 0 0 := (BitVec.and_allOnes (x := w)).symm.trans (h.trans hp)
  rw [hw, hd]

/-- A row that fixes all but field `a` is selected by the words with two zero bytes below it. -/
theorem decode_of_selects_aField {f : Byte → Instr} (op : Byte) (h : w &&& 0xFF00FFFF = pattern)
    (hp : pattern = cmdWord op 0 0 0) (hd : ∀ a, decode ⟨cmdWord op a 0 0, a0, a1⟩ = .ok (f a)) :
    decode ⟨w, a0, a1⟩ = .ok (f (aField w)) := by
  obtain ⟨hop, -, hb, hc⟩ := fields_of_selects 0xFF 0x00 0xFF 0xFF op 0 0 0 h (by decide) hp
  rw [and_full] at hop hb hc
  rw [← hd, ← cmdWord_fields w, hop, hb, hc, aField_cmdWord]

end

/-- A request whose word selects a row of the table decodes to a command with the row's mnemonic. -/
theorem decode_of_selects {r : Request} {row : TableRow} (hrow : row ∈ opcodeTable) (h : r.cmd &&& row.mask = row.pattern) :
    ∃ i, decode r = .ok i ∧ i.mnemonic = row.mnemonic := by
  obtain ⟨w, a0, a1⟩ := r
  simp only [opcodeTable, opcodeRowsLow, opcodeRowsMid, opcodeRowsHigh, List.cons_append, List.nil_append, List.mem_cons,
    List.not_mem_nil, or_false] at hrow
  rcases hrow with rfl | rfl | rfl | rfl | rfl | rfl | rfl | rfl | rfl | rfl | rfl | rfl | rfl | rfl | rfl | rfl | rfl | rfl |
    rfl | rfl | rfl | rfl | rfl | rfl | rfl | rfl | rfl
  · exact ⟨.clkinit, decode_of_selects_noFields 0x01 h (by decide) (by simp [decode]), rfl⟩
  · exact ⟨.time, decode_of_selects_noFields 0x02 h (by decide) (by simp [decode]), rfl⟩
  · exact ⟨.stat, decode_of_selects_noFields 0x03 h (by decide) (by simp [decode]), rfl⟩
  · exact ⟨.dnew (aField w).toNat a0, decode_of_selects_aField (f := fun a => .dnew a.toNat a0) 0x10 h (by decide)
      (fun a => by simp [decode]), rfl⟩
  · exact ⟨.dpoll (aField w).toNat, decode_of_selects_aField (f := fun a => .dpoll a.toNat) 0x11 h (by decide)
      (fun a => by simp [decode]), rfl⟩
  · exact ⟨.inew (aField w).toNat a0, decode_of_selects_aField (f := fun a => .inew a.toNat a0) 0x12 h (by decide)
      (fun a => by simp [decode]), rfl⟩
  · exact ⟨.ipoll (aField w).toNat, decode_of_selects_aField (f := fun a => .ipoll a.toNat) 0x13 h (by decide)
      (fun a => by simp [decode]), rfl⟩
  · obtain ⟨hop, ha, -, hc⟩ := fields_of_selects 0xFF 0x80 0x00 0xF0 0x20 0 0 0 h (by decide) (by decide)
    rw [and_full] at hop
    refine ⟨.wrreg ((aField w).extractLsb' 0 7) (bField w) ((cField w).extractLsb' 0 4).toNat a0, ?_, rfl⟩
    simp only [decode, hop, extract_of_mask80 ha, extract_of_maskF0 hc]
    rfl
  · obtain ⟨hop, ha, -, hc⟩ := fields_of_selects 0xFF 0x80 0x00 0x70 0x21 0 0 0 h (by decide) (by decide)
    rw [and_full] at hop
    refine ⟨.rdreg ((aField w).extractLsb' 0 7) (bField w) ((cField w).getLsbD 7) ((cField w).extractLsb' 0 4).toNat, ?_, rfl⟩
    simp only [decode, hop, extract_of_mask80 ha, extract_of_mask70 hc]
    rfl
  · obtain ⟨hop, ha, hb, hc⟩ := fields_of_selects 0xFF 0xFF 0xFF 0xF0 0x30 0 0 0 h (by decide) (by decide)
    rw [and_full] at hop ha hb
    refine ⟨.accinit ((cField w).extractLsb' 0 4), ?_, rfl⟩
    simp only [decode, hop, ha, hb, extract_of_maskF0 hc]
    rfl
  · exact ⟨.accrd, decode_of_selects_noFields 0x31 h (by decide) (by simp [decode]), rfl⟩
  · exact ⟨.acctemp, decode_of_selects_noFields 0x32 h (by decide) (by simp [decode]), rfl⟩
  · obtain ⟨hop, ha, hb, hc⟩ := fields_of_selects 0xFF 0xFF 0xFF 0xF8 0x34 0 0 0 h (by decide) (by decide)
    rw [and_full] at hop ha hb
    refine ⟨.maginit ((cField w).extractLsb' 0 3), ?_, rfl⟩
    simp only [decode, hop, ha, hb, extract_of_maskF8 hc]
    rfl
  · exact ⟨.magrd, decode_of_selects_noFields 0x35 h (by decide) (by simp [decode]), rfl⟩
  · exact ⟨.magtemp, decode_of_selects_noFields 0x36 h (by decide) (by simp [decode]), rfl⟩
  · exact ⟨.pwminit, decode_of_selects_noFields 0x40 h (by decide) (by simp [decode]), rfl⟩
  · exact ⟨.pwmset (aField w).toNat (lowHalf a0) (highHalf a0),
      decode_of_selects_aField (f := fun a => .pwmset a.toNat (lowHalf a0) (highHalf a0)) 0x41 h (by decide)
        (fun a => by simp [decode]), rfl⟩
  · obtain ⟨hop, ha, -, -⟩ := fields_of_selects 0xFF 0xFF 0x00 0x00 0x42 0 0 0 h (by decide) (by decide)
    rw [and_full] at hop ha
    refine ⟨.pwmsetm (imm16 w) (lowHalf a0) (highHalf a0), ?_, rfl⟩
    simp only [decode, hop, ha]
    rfl
  · obtain ⟨hop, ha, -, -⟩ := fields_of_selects 0xFF 0xF8 0x00 0x00 0x50 0 0 0 h (by decide) (by decide)
    rw [and_full] at hop
    refine ⟨.motspd (motorOfBits ((aField w).extractLsb' 1 2)) (directionOfBit ((aField w).getLsbD 0)) (imm16 w), ?_, rfl⟩
    simp only [decode, hop, extract_of_maskF8 ha]
    rfl
  · exact ⟨.motoff, decode_of_selects_noFields 0x51 h (by decide) (by simp [decode]), rfl⟩
  · obtain ⟨hop, ha, -, -⟩ := fields_of_selects 0xFF 0xFE 0x00 0x00 0x52 0 0 0 h (by decide) (by decide)
    rw [and_full] at hop
    refine ⟨.motall (directionOfBit ((aField w).getLsbD 0)) (imm16 w), ?_, rfl⟩
    simp only [decode, hop, extract_of_maskFE ha]
    rfl
  · exact ⟨.fpush (unpack a0 a1), decode_of_selects_noFields 0x60 h (by decide) (by simp [decode]), rfl⟩
  · exact ⟨.fmean, decode_of_selects_noFields 0x61 h (by decide) (by simp [decode]), rfl⟩
  · exact ⟨.fget (aField w).toNat, decode_of_selects_aField (f := fun a => .fget a.toNat) 0x62 h (by decide)
      (fun a => by simp [decode]), rfl⟩
  · exact ⟨.cceval (unpack a0 a1), decode_of_selects_noFields 0x70 h (by decide) (by simp [decode]), rfl⟩
  · exact ⟨.cccycle, decode_of_selects_noFields 0x71 h (by decide) (by simp [decode]), rfl⟩
  · exact ⟨.ccstep (unpack a0 a1), decode_of_selects_noFields 0x73 h (by decide) (by simp [decode]), rfl⟩

/-- Settles O4, clause by clause: the rows are told apart by bits both fix, and decoding and selecting a row are the same. -/
theorem decodeMatchesOpcodeTable : Obligations.DecodeMatchesOpcodeTable := by
  refine ⟨rfl, ?_, fun r i h => row_of_decode h, fun r row hrow h => decode_of_selects hrow h⟩
  exact opcodeTable_distinguished.imp fun hne w ⟨hp, hq⟩ => hne (patterns_agree_of_selects hp hq)

/-- Settles O1: each of the sixteen words is decoded by evaluation. -/
theorem specWordsDecode : Obligations.SpecWordsDecode := by
  unfold Obligations.SpecWordsDecode
  decide

end Sys2Proof
end

section
/-! A command word that selects no row (30_encoding.md R89). -/

namespace Sys2Proof.Machine

/-- SEQ's step where the latched words do not decode. -/
theorem seqStep_illegal {s : State} {k : Nat} (hp : s.pos = .busy k) (hd : ∀ i, decode (latched s) ≠ .ok i) :
    seqStep s = .next (raiseStatus .illegal 0 0 s) := by
  obtain ⟨hidle, -⟩ | ⟨_, i, -, hi, -⟩ | ⟨_, _, -, -, hs⟩ := seqStep_cases s
  · rw [hp] at hidle; cases hidle
  · exact absurd hi (hd i)
  · exact hs

/-- Settles O8: a word that selects no row does not decode (O4), and `raise` writes its four fields only. -/
theorem illegalWordRaisesIllegal : Obligations.IllegalWordRaisesIllegal := by
  intro s k hp hrow
  refine seqStep_illegal hp fun i hd => ?_
  obtain ⟨row, hmem, -, hsel⟩ := row_of_decode hd
  exact hrow row hmem hsel

end Sys2Proof.Machine
end

section
/-! What SEQ's step of a command can do in a state that meets the invariant: it holds, issues, takes an answer, ends, or goes on to
another position of the control cycle (10_state.md R40, 20_memory.md R53, 47_collision_fsm.md R220). -/

namespace Sys2Proof.Machine

/-! ## The transaction of a position -/

/-- An idle sequencer has no command in progress. -/
theorem inProgress_idle {s : State} (hp : s.pos = .idle) : inProgress s = none := by simp only [inProgress, hp]

/-- A word that does not decode is no command in progress. -/
theorem inProgress_illegal {s : State} {e : Reject} (hd : decode (latched s) = .error e) : inProgress s = none := by
  cases hp : s.pos with
  | idle => exact inProgress_idle hp
  | busy k => simp only [inProgress, hp, hd]

/-- The transaction of the position is the command's. -/
theorem pendingTx_of_inProgress {s : State} {i : Instr} {k : Nat} (h : inProgress s = some (i, k)) :
    pendingTx s = commandTx s.cfg s.ccDir k i := by simp only [pendingTx, h]

/-- Without a command in progress there is none. -/
theorem pendingTx_none {s : State} (h : inProgress s = none) : pendingTx s = none := by simp only [pendingTx, h]

/-- A command in progress is decoded from the latched words, at the position in `pos`. -/
theorem of_inProgress {s : State} {i : Instr} {k : Nat} (h : inProgress s = some (i, k)) :
    s.pos = .busy k ∧ decode (latched s) = .ok i := by
  cases hp : s.pos with
  | idle => rw [inProgress_idle hp] at h; cases h
  | busy k' =>
    cases hd : decode (latched s) with
    | error e => rw [inProgress_illegal hd] at h; cases h
    | ok i' => rw [inProgress_busy hp hd] at h; cases h; exact ⟨rfl, rfl⟩

/-- Where the position has no transaction, a legal port is free. -/
theorem bus_free_of_noTx {s : State} (h : busLegal s) (hn : pendingTx s = none) : s.bus = .free := by
  unfold busLegal at h
  cases hb : s.bus with
  | free => rfl
  | outstanding tx => rw [hb, hn] at h; cases h
  | answered tx ans => rw [hb, hn] at h; cases h.1

/-- A transaction on a legal port is the position's. -/
theorem pendingTx_outstanding {s : State} {tx : Transaction} (h : busLegal s) (hb : s.bus = .outstanding tx) :
    pendingTx s = some tx := by
  unfold busLegal at h
  rw [hb] at h
  exact h

/-- An answer on a legal port is the answer to the position's transaction, and the newest event. -/
theorem pendingTx_answered {s : State} {tx : Transaction} {ans : BusAnswer} (h : busLegal s) (hb : s.bus = .answered tx ans) :
    pendingTx s = some tx ∧ s.history.head? = some (.transaction (opField s.cmd) tx (some ans)) := by
  unfold busLegal at h
  rw [hb] at h
  obtain ⟨htx, -, hhead⟩ := h
  exact ⟨htx, hhead⟩

/-! ## The positions of the control cycle -/

/-- The two control cycles. -/
theorem cycle_cases {i : Instr} (h : isCycle i = true) : i = .cccycle ∨ ∃ live, i = .ccstep live := by
  cases i with
  | cccycle => exact .inl rfl
  | ccstep live => exact .inr ⟨live, rfl⟩
  | _ => cases h

/-- A control cycle has 23 positions (R220). -/
theorem positions_cycle {i : Instr} (h : isCycle i = true) : positions i = 23 := by
  obtain rfl | ⟨live, rfl⟩ := cycle_cases h
  · rfl
  · rfl

/-- From position 1 on a control cycle's transactions are those of the reaction (R220, R231). -/
theorem commandTx_cycle {i : Instr} {k : Nat} (h : isCycle i = true) (hk : k ≠ 0) (cfg : Config) (dir : Direction) :
    commandTx cfg dir k i = reactionTx cfg dir k := by
  obtain rfl | ⟨live, rfl⟩ := cycle_cases h
  · simp only [commandTx, hk, if_false]
  · rfl

/-- The positions of the reaction without a transaction have none in either direction (R220). -/
theorem reactionTx_eq_none {k : Nat} (h : k < 3 ∨ 10 < k ∧ k < 13 ∨ 20 < k) (cfg : Config) (dir : Direction) :
    reactionTx cfg dir k = none := by
  obtain h | ⟨h10, h13⟩ | h := h
  · rw [reactionTx, if_pos h]
  · rw [reactionTx, if_neg (by omega), if_neg (by omega), if_pos h13]
  · rw [reactionTx, if_neg (by omega), if_neg (by omega), if_neg (by omega), if_neg (by omega)]

/-! ## What a step can do -/

/-- What SEQ's step of command `i` at position `k` can make of a state that meets the invariant. -/
inductive LegalMove (i : Instr) (k : Nat) (s : State) : State → Prop where
  /-- SEQ holds: BUS has not answered (R53), or the settle target is not reached (R224). -/
  | held : LegalMove i k s s
  /-- SEQ issues the position's transaction (R53). -/
  | issued {tx : Transaction} (hb : s.bus = .free) (htx : commandTx s.cfg s.ccDir k i = some tx) :
      LegalMove i k s { s with bus := .outstanding tx }
  /-- SEQ takes an `Ok` and goes on to the next position; `CCCYCLE` keeps the sample it read (R17, R231). -/
  | took {tx : Transaction} {r : List Byte} {live : Sample} (hb : s.bus = .answered tx (.ok r))
      (htx : commandTx s.cfg s.ccDir k i = some tx) (hk : k + 1 < positions i) (hlive : live ≠ s.ccLive → k = 0) :
      LegalMove i k s (goto (k + 1) { s with bus := .free, ccLive := live })
  /-- The command ends. -/
  | ended {t : State} (h : EndsAlone { s with bus := .free } t) : LegalMove i k s t
  /-- The control cycle goes on without a transaction. Position `k'` is then one whose predecessor makes none, so it drives no
  motor (R187), and in the reaction the detected collision stands (log 12). -/
  | wentOn {k' : Nat} {dir : Direction} {live : Sample} {settle : Word} {hist : List Event} (hb : s.bus = .free)
      (hk : k' < positions i) (hh : hist = s.history ∨ ∃ v, hist = .indicator v :: s.history)
      (alone : ∀ d, commandTx s.cfg d (k' - 1) i = none)
      (hit : 2 ≤ k' → k' ≤ 21 → detect live (mean s.cfg s.win) = true) :
      LegalMove i k s (goto k' { s with ccDir := dir, ccLive := live, ccSettle := settle, history := hist })

section
variable {i : Instr} {k : Nat} {s : State}

/-- At a position with a transaction. -/
theorem transact_legalMove {tx : Transaction} {cont : BusAnswer → State → State} (hbus : busLegal s)
    (hpend : pendingTx s = commandTx s.cfg s.ccDir k i) (htx : commandTx s.cfg s.ccDir k i = some tx)
    (hf : Follows i k cont) : LegalMove i k s (transact tx cont s) := by
  obtain ⟨hb, h⟩ | ⟨_, -, h⟩ | ⟨tx', ans, hb, h⟩ := transact_cases tx cont s <;> rw [h]
  · exact .issued hb htx
  · exact .held
  cases ans with
  | err e => rw [hf.err]; exact .ended (raise_endsAlone ..)
  | ok r =>
    obtain rfl : tx = tx' := Option.some.inj (htx.symm.trans (hpend.symm.trans (pendingTx_answered hbus hb).1))
    obtain ⟨hk, hgo⟩ | ⟨-, hend⟩ := hf.ok
    · obtain ⟨live, hl, hlive⟩ := hgo r { s with bus := .free }
      rw [hl]
      exact .took hb htx hk fun hne => (hlive hne).2
    · obtain ⟨r0, r1, hr⟩ := hend r { s with bus := .free }
      rw [hr]
      exact .ended (respond_endsAlone ..)

/-- A free port stays as it is. -/
theorem with_bus_free (hb : s.bus = .free) : { s with bus := .free } = s := by rw [← hb]

/-- At a position of the control cycle without a transaction. -/
theorem cycleFrom_legalMove (hi : isCycle i = true) (hp : s.pos = .busy k) (h1 : 1 ≤ k) (hk : k < 23) (hb : s.bus = .free)
    (hn : reactionTx s.cfg s.ccDir k = none) (hit : 2 ≤ k → k ≤ 21 → detect s.ccLive (mean s.cfg s.win) = true) :
    LegalMove i k s (cycleFrom s) := by
  have alone : ∀ {k'}, k' ≠ 0 → (k' < 3 ∨ 10 < k' ∧ k' < 13 ∨ 20 < k') → ∀ d, commandTx s.cfg d k' i = none :=
    fun h0 h d => (commandTx_cycle hi h0 _ _).trans (reactionTx_eq_none h _ _)
  have legal : ∀ {k'}, k' < 23 → k' < positions i := fun h => by rw [positions_cycle hi]; exact h
  obtain rfl | rfl | rfl | rfl | rfl | rfl := reactionTx_none h1 hk hn
  · rw [cycleFrom_detect hp, ccDetect]
    split
    · exact .wentOn hb (legal (by decide)) (.inl rfl) (alone (by decide) (by decide)) fun _ _ => ‹_›
    · exact .wentOn hb (legal (by decide)) (.inl rfl) (alone (by decide) (by decide)) fun _ h => absurd h (by decide)
  · rw [cycleFrom_toggle hp]
    exact .wentOn hb (legal (by decide)) (.inl rfl) (alone (by decide) (by decide)) fun _ _ => hit (by decide) (by decide)
  · rw [cycleFrom_armSettle hp]
    exact .wentOn hb (legal (by decide)) (.inl rfl) (alone (by decide) (by decide)) fun _ _ => hit (by decide) (by decide)
  · rw [cycleFrom_settleWait hp, ccSettleWait]
    split
    · exact .wentOn hb (legal (by decide)) (.inl rfl) (alone (by decide) (by decide)) fun _ _ => hit (by decide) (by decide)
    · exact .held
  · rw [cycleFrom_indicate hp]
    exact .wentOn hb (legal (by decide)) (.inr ⟨_, rfl⟩) (alone (by decide) (by decide)) fun _ h => absurd h (by decide)
  · rw [cycleFrom_finish hp]
    exact .ended { respond_endsAlone .ok 0 0 s with bus := hb }

/-- Everything SEQ's step of a command can do in a state that meets the invariant. -/
theorem exec_legalMove {t : State} (hs : s.Inv) (hprog : inProgress s = some (i, k)) (h : exec i s = .next t) :
    LegalMove i k s t := by
  obtain ⟨hp, hd⟩ := of_inProgress hprog
  have hk : k < positions i := by
    have hpos := hs.pos
    simp only [posLegal, hp, hd] at hpos
    exact hpos.2
  have hpend := pendingTx_of_inProgress hprog
  cases htx : commandTx s.cfg s.ccDir k i with
  | some tx =>
    obtain ⟨cont, he, hf⟩ := exec_transact hp htx
    rw [he] at h
    cases h
    exact transact_legalMove hs.bus hpend htx hf
  | none =>
    have hb : s.bus = .free := bus_free_of_noTx hs.bus (hpend.trans htx)
    cases hi : isCycle i with
    | false =>
      refine .ended ?_
      rw [with_bus_free hb]
      exact exec_local hp hk hi htx h
    | true =>
      cases k with
      | zero =>
        obtain rfl | ⟨live, rfl⟩ := cycle_cases hi
        · cases htx
        · simp only [exec, execCcstep, hp, index_busy, if_true] at h
          cases h
          exact .wentOn hb (Nat.one_lt_succ_succ 21) (.inl rfl) (fun _ => rfl) fun h => absurd h (by decide)
      | succ k =>
        rw [exec_cycle hi hp] at h
        cases h
        rw [commandTx_cycle hi k.succ_ne_zero] at htx
        rw [positions_cycle hi] at hk
        exact cycleFrom_legalMove hi hp k.succ_pos hk hb htx (hs.hit i (k + 1) hprog hi)

end

end Sys2Proof.Machine
end

section
/-! The invariant of the state (10_state.md R40, 20_memory.md R57, 47_collision_fsm.md R220): every step keeps it. -/

namespace Sys2Proof.Machine

/-! ## The part of the invariant that does not speak of the command in progress -/

/-- The parameters, the slots and the clock are legal. -/
structure DataLegal (s : State) : Prop where
  cfgLegal : s.cfg.wf = true
  delays : 1 ≤ s.nDelay ∧ s.nDelay ≤ 16
  intervals : 1 ≤ s.nInterval ∧ s.nInterval ≤ 16
  pendEnabled : s.tickPend = true → s.tmrEn = true
  doneArmed : ∀ d ∈ s.dly, d.done = true → d.armed = true

/-- The invariant includes it. -/
theorem State.Inv.data {s : State} (h : s.Inv) : DataLegal s :=
  ⟨h.cfgLegal, h.delays, h.intervals, h.pendEnabled, h.doneArmed⟩

section
variable {s t : State}

/-- It depends on five items of the state only. -/
theorem DataLegal.congr (h : DataLegal s) (hcfg : t.cfg = s.cfg) (hdly : t.dly = s.dly) (hivl : t.ivl = s.ivl)
    (hpend : t.tickPend = s.tickPend) (hen : t.tmrEn = s.tmrEn) : DataLegal t where
  cfgLegal := by rw [hcfg]; exact h.cfgLegal
  delays := by rw [State.nDelay, hdly]; exact h.delays
  intervals := by rw [State.nInterval, hivl]; exact h.intervals
  pendEnabled := by rw [hpend, hen]; exact h.pendEnabled
  doneArmed := by rw [hdly]; exact h.doneArmed

/-- A command that ends keeps it. -/
theorem DataLegal.endsAlone (h : DataLegal s) (he : EndsAlone s t) : DataLegal t where
  cfgLegal := by rw [he.cfg]; exact h.cfgLegal
  delays := by rw [he.delays]; exact h.delays
  intervals := by rw [he.intervals]; exact h.intervals
  pendEnabled hp := he.tmrEn (h.pendEnabled (he.tickPend.symm.trans hp))
  doneArmed := he.doneArmed h.doneArmed

/-- The timer event keeps it: only an enabled timer makes a tick pending (R110). -/
theorem DataLegal.timerEvent (h : DataLegal s) : DataLegal (timerEvent s) where
  cfgLegal := h.cfgLegal
  delays := h.delays
  intervals := h.intervals
  pendEnabled hp := (Bool.or_eq_true_iff.mp hp).elim h.pendEnabled id
  doneArmed := h.doneArmed

/-- The handler keeps it: afterwards no tick is pending (R111). -/
theorem DataLegal.tickHandler (h : DataLegal s) : DataLegal (tickHandler s) where
  cfgLegal := by rw [tickHandler_cfg]; exact h.cfgLegal
  delays := by rw [State.nDelay, tickHandler_dly]; exact h.delays
  intervals := by rw [State.nInterval, tickHandler_ivl]; exact h.intervals
  pendEnabled hp := by rw [tickHandler_tickPend] at hp; cases hp
  doneArmed := by rw [tickHandler_dly]; exact h.doneArmed

/-- Reset keeps it: the slots keep their number and none is done (R270). -/
theorem DataLegal.applyReset (h : DataLegal s) : DataLegal (applyReset s) where
  cfgLegal := h.cfgLegal
  delays := by rw [State.nDelay, applyReset_dly, List.length_replicate]; exact h.delays
  intervals := by rw [State.nInterval, applyReset_ivl, List.length_replicate]; exact h.intervals
  pendEnabled := nofun
  doneArmed d hd := by
    rw [applyReset_dly] at hd
    rw [List.eq_of_mem_replicate hd]
    exact nofun

/-! ## The invariant at an idle sequencer and at a position with a free port -/

/-- An idle sequencer with a free port meets the invariant if its data are legal. -/
theorem inv_of_idle (h : DataLegal s) (hp : s.pos = .idle) (hb : s.bus = .free) : s.Inv where
  cfgLegal := h.cfgLegal
  delays := h.delays
  intervals := h.intervals
  pendEnabled := h.pendEnabled
  doneArmed := h.doneArmed
  pos := by simp only [posLegal, hp]
  bus := by simp only [busLegal, hb]
  hit i k hprog := by rw [inProgress_idle hp] at hprog; cases hprog

/-- So does a sequencer at a position of its command with a free port, if in the reaction the detected collision stands. -/
theorem inv_of_busy {k : Nat} {i : Instr} (h : DataLegal s) (hp : s.pos = .busy k) (hv : s.respValid = false)
    (hd : decode (latched s) = .ok i) (hk : k < positions i) (hb : s.bus = .free)
    (hit : isCycle i = true → 2 ≤ k → k ≤ 21 → collides s s.ccLive = true) : s.Inv where
  cfgLegal := h.cfgLegal
  delays := h.delays
  intervals := h.intervals
  pendEnabled := h.pendEnabled
  doneArmed := h.doneArmed
  pos := by simp only [posLegal, hp, hd]; exact ⟨hv, hk⟩
  bus := by simp only [busLegal, hb]
  hit i' k' hprog := by rw [inProgress_busy hp hd] at hprog; cases hprog; exact hit

/-! ## The other agents -/

/-- The items the legality of the position, of the port and of the reaction depends on. -/
structure SameCommand (s t : State) : Prop where
  cfg : t.cfg = s.cfg
  win : t.win = s.win
  ccDir : t.ccDir = s.ccDir
  ccLive : t.ccLive = s.ccLive
  cmd : t.cmd = s.cmd
  arg0 : t.arg0 = s.arg0
  arg1 : t.arg1 = s.arg1
  pos : t.pos = s.pos
  respValid : t.respValid = s.respValid

/-- With the same items the same command is in progress. -/
theorem SameCommand.inProgress (h : SameCommand s t) : inProgress t = inProgress s := by
  rw [Machine.inProgress, Machine.inProgress, latched_eq, latched_eq, h.pos, h.cmd, h.arg0, h.arg1]

/-- With the same items the same transaction is the position's. -/
theorem SameCommand.pendingTx (h : SameCommand s t) : pendingTx t = pendingTx s := by
  rw [Machine.pendingTx, Machine.pendingTx, h.inProgress, h.cfg, h.ccDir]

/-- A step of another agent that leaves the command in progress alone keeps the invariant if it keeps the data and the port. -/
theorem SameCommand.inv (h : SameCommand s t) (hs : s.Inv) (hdata : DataLegal t) (hb : busLegal t) : t.Inv where
  cfgLegal := hdata.cfgLegal
  delays := hdata.delays
  intervals := hdata.intervals
  pendEnabled := hdata.pendEnabled
  doneArmed := hdata.doneArmed
  pos := by
    have := hs.pos
    rw [posLegal, latched_eq] at this ⊢
    rw [h.pos, h.cmd, h.arg0, h.arg1, h.respValid]
    exact this
  bus := hb
  hit i k hprog hc h2 h21 := by
    rw [collides_congr h.cfg h.win, h.ccLive]
    exact hs.hit i k (h.inProgress ▸ hprog) hc h2 h21

/-- With the port and the history untouched too, the port is as legal as it was. -/
theorem SameCommand.busLegal (h : SameCommand s t) (hs : busLegal s) (hb : t.bus = s.bus) (hh : t.history = s.history) :
    busLegal t := by
  rw [Machine.busLegal, h.pendingTx, hb, hh, h.cmd]
  exact hs

/-- A command has a position 0. -/
theorem positions_pos (i : Instr) : 0 < positions i := by cases i <;> simp [positions]

/-- Accepting a request gives a legal position 0; at an idle sequencer the port is free. -/
theorem inv_latch (r : Request) (hs : s.Inv) (hp : s.pos = .idle) : (latch r s).Inv where
  cfgLegal := hs.cfgLegal
  delays := hs.delays
  intervals := hs.intervals
  pendEnabled := hs.pendEnabled
  doneArmed := hs.doneArmed
  pos := by
    refine ⟨rfl, ?_⟩
    split
    · exact positions_pos _
    · rfl
  bus := by
    have hb : s.bus = .free := bus_free_of_noTx hs.bus (pendingTx_none (inProgress_idle hp))
    simp only [Machine.busLegal, latch_bus, hb]
  hit i k hprog _ h2 := by
    cases (of_inProgress hprog).1
    exact absurd h2 (by decide)

/-- The agents other than SEQ keep the invariant. -/
theorem agentStep_keeps_inv {i : Input} (hs : s.Inv) (hseq : i ≠ .seq) (h : agentStep i s = .next t) : t.Inv := by
  cases i with
  | timer =>
    cases h
    have same : SameCommand s (timerEvent s) := ⟨rfl, rfl, rfl, rfl, rfl, rfl, rfl, rfl, rfl⟩
    exact same.inv hs hs.data.timerEvent (same.busLegal hs.bus rfl rfl)
  | handler =>
    cases h
    have same : SameCommand s (tickHandler s) := by constructor <;> simp
    exact same.inv hs hs.data.tickHandler (same.busLegal hs.bus (tickHandler_bus s) (tickHandler_history s))
  | reset => cases h; exact inv_of_idle hs.data.applyReset rfl rfl
  | request r =>
    cases h
    cases hp : s.pos with
    | idle => rw [acceptRequest_idle r hp]; exact inv_latch r hs hp
    | busy k => rw [acceptRequest_busy r hp]; exact hs
  | bus ans =>
    obtain ⟨tx, hb, hf, rfl⟩ | ⟨-, rfl⟩ := busStep_next h
    · have same : SameCommand s { s with bus := .answered tx ans,
                                         history := .transaction (opField s.cmd) tx (some ans) :: s.history } :=
        ⟨rfl, rfl, rfl, rfl, rfl, rfl, rfl, rfl, rfl⟩
      exact same.inv hs (hs.data.congr rfl rfl rfl rfl rfl)
        ⟨same.pendingTx.trans (pendingTx_outstanding hs.bus hb), hf, rfl⟩
    · exact hs
  | lateBus ans => cases h; exact hs
  | seq => exact absurd rfl hseq

/-! ## SEQ -/

/-- A legal move of SEQ keeps the invariant. -/
theorem LegalMove.keeps_inv {i : Instr} {k : Nat} (hs : s.Inv) (hprog : inProgress s = some (i, k)) (h : LegalMove i k s t) :
    t.Inv := by
  obtain ⟨hp, hd⟩ := of_inProgress hprog
  have hv : s.respValid = false := by
    have hpos := hs.pos
    simp only [posLegal, hp] at hpos
    exact hpos.1
  cases h with
  | held => exact hs
  | @issued tx hb htx =>
    have same : SameCommand s { s with bus := .outstanding tx } := ⟨rfl, rfl, rfl, rfl, rfl, rfl, rfl, rfl, rfl⟩
    exact same.inv hs (hs.data.congr rfl rfl rfl rfl rfl) (same.pendingTx.trans ((pendingTx_of_inProgress hprog).trans htx))
  | @took tx r live hb htx hk hlive =>
    refine inv_of_busy (hs.data.congr rfl rfl rfl rfl rfl) rfl hv hd hk rfl fun hc h2 h21 => ?_
    have hk1 : k ≠ 1 := by
      rintro rfl
      rw [commandTx_cycle hc (by decide), reactionTx_eq_none (by decide)] at htx
      cases htx
    have hl : live = s.ccLive := not_not.mp fun hne => absurd (hlive hne) (by omega)
    rw [hl]
    exact hs.hit i k hprog hc (by omega) (by omega)
  | ended he =>
    have data : DataLegal { s with bus := .free } := hs.data.congr rfl rfl rfl rfl rfl
    exact inv_of_idle (data.endsAlone he) he.pos he.bus
  | wentOn hb hk _ _ hit => exact inv_of_busy (hs.data.congr rfl rfl rfl rfl rfl) rfl hv hd hk hb fun _ => hit

/-- SEQ's step keeps the invariant. -/
theorem seqStep_keeps_inv (hs : s.Inv) (h : seqStep s = .next t) : t.Inv := by
  obtain ⟨-, he⟩ | ⟨k, i, hp, hd, he⟩ | ⟨_, e, -, hd, he⟩ := seqStep_cases s <;> rw [he] at h
  · cases h; exact hs
  · have hprog := inProgress_busy hp hd
    exact (exec_legalMove hs hprog h).keeps_inv hs hprog
  · cases h
    have hb : s.bus = .free := bus_free_of_noTx hs.bus (pendingTx_none (inProgress_illegal hd))
    exact inv_of_idle (hs.data.endsAlone (raise_endsAlone ..)) rfl hb

/-- The rest of the schedule is no part of the invariant. -/
theorem State.Inv.with_inputs (hs : s.Inv) (rest : List Input) : ({ s with inputs := rest } : State).Inv :=
  ⟨hs.cfgLegal, hs.delays, hs.intervals, hs.pendEnabled, hs.doneArmed, hs.pos, hs.bus, hs.hit⟩

end

/-- Settles O56, by the agent that moves. -/
theorem stepKeepsInvariant : Obligations.StepKeepsInvariant := by
  intro s t hs h
  obtain ⟨-, he⟩ | ⟨i, rest, -, he⟩ := step_cases s <;> rw [he] at h
  · exact seqStep_keeps_inv hs h
  · by_cases hseq : i = .seq
    · subst hseq; exact seqStep_keeps_inv (hs.with_inputs rest) h
    · exact agentStep_keeps_inv (hs.with_inputs rest) hseq h

end Sys2Proof.Machine
end

section
/-! Motor safety (45_motor.md R189): every step keeps that a write that drives a motor stands right after the antagonist's
off-write. -/

namespace Sys2Proof.Machine

section
variable {s t : State}

/-- With no transaction at the position the second half of the property asks nothing. -/
theorem motorSafe_of_noTx (hpast : activeAfterOff s.cfg s.history) (hn : pendingTx s = none) : s.MotorSafe where
  past := hpast
  next _ tx _ _ htx := by rw [hn] at htx; cases htx

/-- The property depends on the history, the port and the command in progress. -/
theorem SameCommand.motorSafe (h : SameCommand s t) (hs : s.MotorSafe)
    (hb : ∀ tx ans, s.bus = .answered tx ans → t.bus = .answered tx ans)
    (hh : t.history = s.history) : t.MotorSafe where
  past := by rw [h.cfg, hh]; exact hs.past
  next hna tx m d htx ho hd := by
    rw [h.pendingTx] at htx
    rw [h.cmd] at ho
    rw [h.cfg] at hd ⊢
    rw [hh]
    exact hs.next (fun tx ans hb' => hna tx ans (hb tx ans hb')) tx m d htx ho hd

/-- A transaction leaves the port for the history, answered or abandoned: what R189 asks of it is what held while it waited. -/
theorem activeAfterOff_outstanding {tx : Transaction} (ans : Option BusAnswer) (hs : s.MotorSafe) (hbus : busLegal s)
    (hb : s.bus = .outstanding tx) :
    activeAfterOff s.cfg (.transaction (opField s.cmd) tx ans :: s.history) := by
  refine ⟨fun op tx' ans' m d he ho hd => ?_, hs.past⟩
  cases he
  exact hs.next (by rw [hb]; exact nofun) tx m d (pendingTx_outstanding hbus hb) ho hd

/-- An indicator event drives no motor. -/
theorem activeAfterOff_indicator {cfg : Config} {older : List Event} (v : Fin 9) (h : activeAfterOff cfg older) :
    activeAfterOff cfg (.indicator v :: older) := ⟨nofun, h⟩

/-- The opcode of the command in progress is the latched one. -/
theorem op_of_inProgress {i : Instr} {k : Nat} (h : inProgress s = some (i, k)) : opField s.cmd = i.op :=
  op_of_decode (r := latched s) (of_inProgress h).2

/-- At a position whose predecessor makes no transaction a motor command drives no motor. -/
theorem motorSafe_of_alone {i : Instr} {k : Nat} (hw : s.cfg.wf = true) (hpast : activeAfterOff s.cfg s.history)
    (hprog : inProgress s = some (i, k)) (halone : k = 0 ∨ commandTx s.cfg s.ccDir (k - 1) i = none) : s.MotorSafe where
  past := hpast
  next _ tx m d htx ho hd := by
    rw [pendingTx_of_inProgress hprog] at htx
    rw [op_of_inProgress hprog] at ho
    obtain ⟨h1, hoff⟩ := command_preceded hw ho htx hd
    obtain rfl | hn := halone
    · exact absurd h1 (by decide)
    · rw [hn] at hoff; cases hoff

/-- After an `Ok` the next position's write is safe: if it drives a motor, the answered transaction, the newest event, switched the
antagonist off (R187). -/
theorem motorSafe_of_took {i : Instr} {k : Nat} {tx : Transaction} {r : List Byte} (hs : s.Inv) (hm : s.MotorSafe)
    (hprog : inProgress s = some (i, k)) (hb : s.bus = .answered tx (.ok r)) (live : Sample) :
    (goto (k + 1) { s with bus := .free, ccLive := live }).MotorSafe where
  past := hm.past
  next _ tx' m d htx' ho hd := by
    obtain ⟨hpend, hhead⟩ := pendingTx_answered hs.bus hb
    have hop := op_of_inProgress hprog
    have htx : commandTx s.cfg s.ccDir k i = some tx := (pendingTx_of_inProgress hprog).symm.trans hpend
    have hprog' : inProgress (goto (k + 1) { s with bus := .free, ccLive := live }) = some (i, k + 1) :=
      inProgress_busy rfl (of_inProgress hprog).2
    have hnext : commandTx s.cfg s.ccDir (k + 1) i = some tx' := (pendingTx_of_inProgress hprog').symm.trans htx'
    obtain ⟨-, hoff⟩ := command_preceded hs.cfgLegal (hop ▸ ho) hnext hd
    obtain rfl : tx = antagonistOff s.cfg m d := Option.some.inj (htx.symm.trans hoff)
    exact ⟨opField s.cmd, r, ho, hhead⟩

/-- The agents other than SEQ keep the property. -/
theorem agentStep_keeps_motorSafe {i : Input} (hs : s.Inv) (hm : s.MotorSafe) (hseq : i ≠ .seq)
    (h : agentStep i s = .next t) : t.MotorSafe := by
  cases i with
  | timer =>
    cases h
    have same : SameCommand s (timerEvent s) := ⟨rfl, rfl, rfl, rfl, rfl, rfl, rfl, rfl, rfl⟩
    exact same.motorSafe hm (fun _ _ => id) rfl
  | handler =>
    cases h
    have same : SameCommand s (tickHandler s) := by constructor <;> simp
    exact same.motorSafe hm (fun tx ans => (tickHandler_bus s).trans) (tickHandler_history s)
  | reset =>
    cases h
    refine motorSafe_of_noTx ?_ (pendingTx_none (inProgress_idle rfl))
    cases hb : s.bus with
    | outstanding tx =>
      rw [applyReset_history, abandoned, hb]
      exact activeAfterOff_outstanding none hm hs.bus hb
    | free => rw [applyReset_history, abandoned, hb]; exact hm.past
    | answered tx ans => rw [applyReset_history, abandoned, hb]; exact hm.past
  | request r =>
    cases h
    cases hp : s.pos with
    | busy k => rw [acceptRequest_busy r hp]; exact hm
    | idle =>
      rw [acceptRequest_idle r hp]
      cases hd : decode r with
      | ok i => exact motorSafe_of_alone hs.cfgLegal hm.past (inProgress_busy (i := i) rfl hd) (.inl rfl)
      | error e => exact motorSafe_of_noTx hm.past (pendingTx_none (inProgress_illegal (e := e) hd))
  | bus ans =>
    obtain ⟨tx, hb, hf, rfl⟩ | ⟨-, rfl⟩ := busStep_next h
    · exact ⟨activeAfterOff_outstanding (some ans) hm hs.bus hb, fun hna => absurd rfl (hna tx ans)⟩
    · exact hm
  | lateBus ans => cases h; exact hm
  | seq => exact absurd rfl hseq

/-- A legal move of SEQ keeps the property. -/
theorem LegalMove.keeps_motorSafe {i : Instr} {k : Nat} (hs : s.Inv) (hm : s.MotorSafe) (hprog : inProgress s = some (i, k))
    (h : LegalMove i k s t) : t.MotorSafe := by
  cases h with
  | held => exact hm
  | @issued tx hb htx =>
    have same : SameCommand s { s with bus := .outstanding tx } := ⟨rfl, rfl, rfl, rfl, rfl, rfl, rfl, rfl, rfl⟩
    exact same.motorSafe hm (fun _ _ h => by rw [hb] at h; cases h) rfl
  | took hb _ _ _ => exact motorSafe_of_took hs hm hprog hb _
  | ended he =>
    have hpast : activeAfterOff t.cfg t.history := by rw [he.cfg, he.history]; exact hm.past
    exact motorSafe_of_noTx hpast (pendingTx_none (inProgress_idle he.pos))
  | @wentOn _ _ _ _ hist _ _ hh halone _ =>
    have hpast : activeAfterOff s.cfg hist := by
      obtain rfl | ⟨v, rfl⟩ := hh
      · exact hm.past
      · exact activeAfterOff_indicator v hm.past
    exact motorSafe_of_alone hs.cfgLegal hpast (inProgress_busy rfl (of_inProgress hprog).2) (.inr (halone _))

/-- SEQ's step keeps the property. -/
theorem seqStep_keeps_motorSafe (hs : s.Inv) (hm : s.MotorSafe) (h : seqStep s = .next t) : t.MotorSafe := by
  obtain ⟨-, he⟩ | ⟨k, i, hp, hd, he⟩ | ⟨_, e, -, hd, he⟩ := seqStep_cases s <;> rw [he] at h
  · cases h; exact hm
  · have hprog := inProgress_busy hp hd
    exact (exec_legalMove hs hprog h).keeps_motorSafe hs hm hprog
  · cases h; exact motorSafe_of_noTx hm.past (pendingTx_none (inProgress_idle rfl))

/-- The rest of the schedule is no part of the property. -/
theorem State.MotorSafe.with_inputs (hm : s.MotorSafe) (rest : List Input) : ({ s with inputs := rest } : State).MotorSafe :=
  ⟨hm.past, hm.next⟩

end

/-- Settles O57, by the agent that moves. -/
theorem stepKeepsMotorSafety : Obligations.StepKeepsMotorSafety := by
  intro s t hs hm h
  obtain ⟨-, he⟩ | ⟨i, rest, -, he⟩ := step_cases s <;> rw [he] at h
  · exact seqStep_keeps_motorSafe hs hm h
  · by_cases hseq : i = .seq
    · subst hseq; exact seqStep_keeps_motorSafe (hs.with_inputs rest) (hm.with_inputs rest) h
    · exact agentStep_keeps_motorSafe (hs.with_inputs rest) (hm.with_inputs rest) hseq h

end Sys2Proof.Machine
end

section
/-! Everything a step can do, in any state: what SEQ's step of a command can make of the state, and what the step of each agent can
(10_state.md R20, R40, R41). -/

namespace Sys2Proof.Machine

/-! ## SEQ's step of a command -/

/-- What SEQ's step of command `i` at position `k` can make of state `s`, each item with the command that writes it (R20). -/
inductive SeqEffect (i : Instr) (k : Nat) (s : State) : State → Prop where
  /-- At most the port changes. -/
  | ports (b : BusPort) : SeqEffect i k s { s with bus := b }
  /-- The command goes on. -/
  | goesOn (k' : Nat) (b : BusPort) : SeqEffect i k s (goto k' { s with bus := b })
  /-- The command ends with an answer. -/
  | answers (st : Status) (r0 r1 : Word) (b : BusPort) : SeqEffect i k s (respond st r0 r1 { s with bus := b })
  /-- The command ends with a failure (R243). -/
  | fails (st : Status) (info r1 : Word) (b : BusPort) (hst : st ≠ .ok ∧ st ≠ .wouldBlock) :
      SeqEffect i k s (raiseStatus st info r1 { s with bus := b })
  /-- `CLKINIT` enables the timer (R112). -/
  | enables (hi : i = .clkinit) : SeqEffect i k s (respond .ok 0 0 { s with tmrEn := true })
  /-- `DNEW` and `DPOLL` write their delay slot (R121, R122). -/
  | writesDelay (r0 : Word) (dly : List DelaySlot) (h : DelaysBecome i s.tick s.dly dly) :
      SeqEffect i k s (respond .ok r0 0 { s with dly := dly })
  /-- `INEW` arms its interval slot (R125). -/
  | armsInterval (slot : Nat) (period : Word) (v : IntervalSlot) (hi : i = .inew slot period) :
      SeqEffect i k s (respond .ok (s.tick + period) 0 { s with ivl := s.ivl.set slot v })
  /-- `IPOLL` moves its slot's target on by one period (R126). -/
  | firesInterval (slot : Nat) (v : IntervalSlot) (hi : i = .ipoll slot) (hs : s.ivl[slot]? = some v) :
      SeqEffect i k s (respond .ok 1 0 { s with ivl := s.ivl.set slot { v with target := v.target + v.period } })
  /-- `FPUSH` and the end of a control cycle push a sample (R201, R220). -/
  | pushes (smp : Sample) (r0 r1 : Word) (hi : i.mnemonic ∈ ["FPUSH", "CCSTEP", "CCCYCLE"]) :
      SeqEffect i k s (respond .ok r0 r1 { s with win := s.win.push smp })
  /-- A control cycle takes its sample (R220). -/
  | samples (live : Sample) (b : BusPort) (hi : isCycle i = true) (hk : k = 0) :
      SeqEffect i k s (goto 1 { s with bus := b, ccLive := live })
  /-- It toggles the direction (R222). -/
  | toggles (hi : isCycle i = true) (hk : k = 2) : SeqEffect i k s (goto 3 { s with ccDir := s.ccDir.flip })
  /-- It captures the settle target (R224). -/
  | armsSettle (settle : Word) (hi : isCycle i = true) (hk : k = 11) : SeqEffect i k s (goto 12 { s with ccSettle := settle })
  /-- It sends an indicator event (R226). -/
  | indicates (v : Fin 9) : SeqEffect i k s (goto 22 { s with history := .indicator v :: s.history })

section
variable {i : Instr} {k : Nat} {s t : State}

/-- A transaction whose answer is followed by an effect is an effect. -/
theorem tryTransaction_effect {tx : Transaction} {f : List Byte → State → State}
    (hf : ∀ r, SeqEffect i k s (f r { s with bus := .free })) : SeqEffect i k s (tryTransaction tx f s) := by
  obtain ⟨-, h⟩ | ⟨_, -, h⟩ | ⟨_, ans, -, h⟩ := transact_cases tx _ s <;> rw [tryTransaction, h]
  · exact .ports _
  · exact .ports s.bus
  · cases ans with
    | ok r => exact hf r
    | err e => exact .fails _ _ _ _ ⟨nofun, nofun⟩

/-- A sequence of transactions is an effect if its end is one and `Err` ends the command with `BUS_ERROR`. -/
theorem writeSequence_effect {base : Nat} {txs : List Transaction} {done : State → State} {fail : Word → Nat → State → State}
    (hd : ∀ b, SeqEffect i k s (done { s with bus := b }))
    (hf : ∀ e n u, ∃ r1, fail e n u = raiseStatus .busError e r1 u) : SeqEffect i k s (writeSequence base txs done fail s) := by
  cases htx : txs[s.pos.index - base]? with
  | none => rw [writeSequence_none rfl htx]; exact hd s.bus
  | some tx =>
    rw [writeSequence_eq_transact rfl htx]
    obtain ⟨-, h⟩ | ⟨_, -, h⟩ | ⟨_, ans, -, h⟩ := transact_cases tx _ s <;> rw [h]
    · exact .ports _
    · exact .ports s.bus
    · cases ans with
      | ok r =>
        show SeqEffect i k s (if _ then _ else _)
        split
        · exact .goesOn _ _
        · exact hd _
      | err e =>
        obtain ⟨r1, hr⟩ := hf e (s.pos.index - base) { s with bus := .free }
        show SeqEffect i k s (fail e _ _)
        rw [hr]
        exact .fails _ _ _ _ ⟨nofun, nofun⟩

/-- The two control cycles are the commands with these mnemonics. -/
theorem mnemonic_cycle (hi : isCycle i = true) : i.mnemonic ∈ ["CCSTEP", "CCCYCLE"] := by
  obtain rfl | ⟨live, rfl⟩ := cycle_cases hi
  · exact List.mem_cons_of_mem _ List.mem_cons_self
  · exact List.mem_cons_self

/-- A position of the control cycle from 1 on. -/
theorem cycleFrom_effect (hi : isCycle i = true) (hp : s.pos = .busy k) : SeqEffect i k s (cycleFrom s) := by
  simp only [cycleFrom, hp, index_busy]
  split_ifs with h1 h2 h10 h11 h12 h20 h21
  · unfold ccDetect; split <;> exact .goesOn _ s.bus
  · exact .toggles hi h2
  · exact writeSequence_effect (fun b => .goesOn 11 b) fun _ _ _ => ⟨_, rfl⟩
  · exact .armsSettle _ hi h11
  · unfold ccSettleWait
    split
    · exact .goesOn _ s.bus
    · exact .ports s.bus
  · exact writeSequence_effect (fun b => .goesOn 21 b) fun _ _ _ => ⟨_, rfl⟩
  · exact .indicates _
  · exact .pushes _ _ _ (List.mem_cons_of_mem _ (mnemonic_cycle hi))

/-- Everything SEQ's step of a command can do. -/
theorem exec_effect (hp : s.pos = .busy k) (h : exec i s = .next t) : SeqEffect i k s t := by
  have effect : ∀ {u}, (Host.Outcome.next u : Outcome) = .next t → SeqEffect i k s u → SeqEffect i k s t :=
    fun h hu => by cases h; exact hu
  have range : SeqEffect i k s (raiseRange s) := .fails .range 0 0 s.bus ⟨nofun, nofun⟩
  have ok : ∀ r0 r1 b, SeqEffect i k s (respond .ok r0 r1 { s with bus := b }) := fun r0 r1 b => .answers .ok r0 r1 b
  have tried : ∀ {tx f}, (∀ r, SeqEffect i k s (f r { s with bus := .free })) → SeqEffect i k s (tryTransaction tx f s) :=
    tryTransaction_effect
  cases i <;> simp only [exec] at h
  case clkinit => exact effect h (.enables rfl)
  case time | stat | fmean | cceval => exact effect h (ok _ _ s.bus)
  case acctemp | magtemp => exact effect h (.fails _ _ _ s.bus ⟨nofun, nofun⟩)
  case dnew slot duration =>
    unfold execDnew at h
    split at h
    · exact effect h range
    · exact effect h (.writesDelay _ _ (.armed slot duration rfl rfl))
  case dpoll slot =>
    unfold execDpoll at h
    split at h
    · exact effect h range
    · rename_i d hs
      split_ifs at h with ha hd hr
      · exact effect h (.fails _ _ _ s.bus ⟨nofun, nofun⟩)
      · exact effect h (ok _ _ s.bus)
      · exact effect h (.writesDelay _ _ (.reported slot d rfl hs (by simpa using ha) (by simpa using hd) rfl))
      · exact effect h (.answers _ _ _ s.bus)
  case inew slot period =>
    unfold execInew at h
    split at h
    · exact effect h range
    · exact effect h (.armsInterval slot period _ rfl)
  case ipoll slot =>
    unfold execIpoll at h
    split at h
    · exact effect h range
    · rename_i v hs
      split_ifs at h
      · exact effect h (.fails _ _ _ s.bus ⟨nofun, nofun⟩)
      · exact effect h (.firesInterval slot v rfl hs)
      · exact effect h (ok _ _ s.bus)
  case fpush smp => exact effect h (.pushes smp 0 0 List.mem_cons_self)
  case fget =>
    unfold execFget at h
    split at h
    · exact effect h range
    · exact effect h (ok _ _ s.bus)
  -- one transaction
  case accinit | accrd | magrd | pwminit => exact effect h (tried fun _ => ok _ _ _)
  case wrreg => unfold execWrreg at h; split at h; exacts [effect h range, effect h (tried fun _ => ok _ _ _)]
  case rdreg => unfold execRdreg at h; split at h; exacts [effect h range, effect h (tried fun _ => ok _ _ _)]
  case pwmset => unfold execPwmset at h; split at h; exacts [effect h range, effect h (tried fun _ => ok _ _ _)]
  -- a sequence of them
  case maginit | motoff => exact effect h (writeSequence_effect (ok _ _) fun _ _ _ => ⟨_, rfl⟩)
  case pwmsetm =>
    unfold execPwmsetm at h
    split at h; exacts [effect h range, effect h (writeSequence_effect (ok _ _) fun _ _ _ => ⟨_, rfl⟩)]
  case motspd =>
    unfold execMotspd at h
    split at h; exacts [effect h range, effect h (writeSequence_effect (ok _ _) fun _ _ _ => ⟨_, rfl⟩)]
  case motall =>
    unfold execMotall at h
    split at h; exacts [effect h range, effect h (writeSequence_effect (ok _ _) fun _ _ _ => ⟨_, rfl⟩)]
  -- the control cycle
  case ccstep live =>
    simp only [execCcstep, hp, index_busy] at h
    split at h
    · rename_i h0; exact effect h (.samples live s.bus rfl h0)
    · exact effect h (cycleFrom_effect rfl hp)
  case cccycle =>
    simp only [execCccycle, hp, index_busy] at h
    split at h
    · rename_i h0; exact effect h (tried fun r => .samples (accDecode r) .free rfl h0)
    · exact effect h (cycleFrom_effect rfl hp)

end

/-! ## The items an effect keeps, and the one effect that changes an item -/

section
variable {i : Instr} {k : Nat} {s t : State} (h : SeqEffect i k s t)
include h

theorem SeqEffect.cfg : t.cfg = s.cfg := by cases h <;> rfl
theorem SeqEffect.tick : t.tick = s.tick := by cases h <;> rfl
theorem SeqEffect.tickPend : t.tickPend = s.tickPend := by cases h <;> rfl
theorem SeqEffect.cmd : t.cmd = s.cmd := by cases h <;> rfl
theorem SeqEffect.arg0 : t.arg0 = s.arg0 := by cases h <;> rfl
theorem SeqEffect.arg1 : t.arg1 = s.arg1 := by cases h <;> rfl
theorem SeqEffect.inputs : t.inputs = s.inputs := by cases h <;> rfl

theorem SeqEffect.delays : DelaysBecome i s.tick s.dly t.dly := by
  cases h with
  | writesDelay r0 dly hd => exact hd
  | _ => exact .kept rfl

/-- The timer's enable is written by `CLKINIT`, to 1. -/
theorem SeqEffect.tmrEn : t.tmrEn = s.tmrEn ∨ i = .clkinit ∧ t.tmrEn = true := by
  cases h with
  | enables hi => exact .inr ⟨hi, rfl⟩
  | _ => exact .inl rfl

/-- The interval slots are written by `INEW` and `IPOLL`, each its own slot. -/
theorem SeqEffect.intervals : t.ivl = s.ivl ∨
    (∃ slot period v, i = .inew slot period ∧ t.ivl = s.ivl.set slot v) ∨
    (∃ slot v, i = .ipoll slot ∧ s.ivl[slot]? = some v ∧ t.ivl = s.ivl.set slot { v with target := v.target + v.period }) := by
  cases h with
  | armsInterval slot period v hi => exact .inr (.inl ⟨slot, period, v, hi, rfl⟩)
  | firesInterval slot v hi hs => exact .inr (.inr ⟨slot, v, hi, hs, rfl⟩)
  | _ => exact .inl rfl

/-- The window is written by `FPUSH` and the control cycles. -/
theorem SeqEffect.win : t.win = s.win ∨ i.mnemonic ∈ ["FPUSH", "CCSTEP", "CCCYCLE"] := by
  cases h with
  | pushes _ _ _ hi => exact .inr hi
  | _ => exact .inl rfl

/-- The direction is written at position 2 of a control cycle. -/
theorem SeqEffect.ccDir : t.ccDir = s.ccDir ∨ t.ccDir = s.ccDir.flip ∧ k = 2 ∧ i.mnemonic ∈ ["CCSTEP", "CCCYCLE"] := by
  cases h with
  | toggles hi hk => exact .inr ⟨rfl, hk, mnemonic_cycle hi⟩
  | _ => exact .inl rfl

/-- The live sample is written at position 0 of a control cycle. -/
theorem SeqEffect.ccLive : t.ccLive = s.ccLive ∨ k = 0 ∧ i.mnemonic ∈ ["CCSTEP", "CCCYCLE"] := by
  cases h with
  | samples _ _ hi hk => exact .inr ⟨hk, mnemonic_cycle hi⟩
  | _ => exact .inl rfl

/-- The settle target is written at position 11 of a control cycle. -/
theorem SeqEffect.ccSettle : t.ccSettle = s.ccSettle ∨ k = 11 ∧ i.mnemonic ∈ ["CCSTEP", "CCCYCLE"] := by
  cases h with
  | armsSettle _ hi hk => exact .inr ⟨hk, mnemonic_cycle hi⟩
  | _ => exact .inl rfl

/-- A sticky bit is set only where a command ends with a failure status. -/
theorem SeqEffect.sticky : t.sticky = s.sticky ∨
    t.pos = .idle ∧ (t.resp.status ≠ .ok ∧ t.resp.status ≠ .wouldBlock) ∧ s.sticky &&& t.sticky = s.sticky := by
  cases h with
  | fails st _ _ _ hst => exact .inr ⟨rfl, hst, sticky_kept st s.sticky⟩
  | _ => exact .inl rfl

/-- The response is written only where a command ends. -/
theorem SeqEffect.resp : t.resp = s.resp ∨ t.pos = .idle := by
  cases h with
  | answers | fails | enables | writesDelay | armsInterval | firesInterval | pushes => exact .inr rfl
  | _ => exact .inl rfl

/-- The history grows by at most an indicator event. -/
theorem SeqEffect.history : t.history = s.history ∨ ∃ e, t.history = e :: s.history := by
  cases h with
  | indicates v => exact .inr ⟨_, rfl⟩
  | _ => exact .inl rfl

end

/-! ## The step of the machine -/

/-- HOST's request is latched or leaves no trace (R40, R261). -/
theorem acceptRequest_cases (r : Request) (s : State) :
    (s.pos = .idle ∧ acceptRequest r s = latch r s) ∨ (∃ k, s.pos = .busy k ∧ acceptRequest r s = s) := by
  cases hp : s.pos with
  | idle => exact .inl ⟨rfl, acceptRequest_idle r hp⟩
  | busy k => exact .inr ⟨k, rfl, acceptRequest_busy r hp⟩

/-- The schedule lets SEQ move (log 6). -/
def SeqMoves (s : State) : Prop := s.inputs = [] ∨ s.inputs.head? = some .seq

/-- Everything a step can do, by the agent that moves; `rest` is the schedule that remains. -/
inductive StepEffect (s : State) : State → Prop where
  /-- TMR's event (R110). -/
  | timer {rest : List Input} (hin : s.inputs = .timer :: rest) : StepEffect s (timerEvent { s with inputs := rest })
  /-- The tick handler's step (R111). -/
  | handler {rest : List Input} (hin : s.inputs = .handler :: rest) : StepEffect s (tickHandler { s with inputs := rest })
  /-- The reset input (R270). -/
  | reset {rest : List Input} (hin : s.inputs = .reset :: rest) : StepEffect s (applyReset { s with inputs := rest })
  /-- HOST's request, accepted (R40). -/
  | accepts {r : Request} {rest : List Input} (hin : s.inputs = .request r :: rest) (hp : s.pos = .idle) :
      StepEffect s (latch r { s with inputs := rest })
  /-- BUS's answer (R53, R43). -/
  | answers (tx : Transaction) (ans : BusAnswer) (rest : List Input) :
      StepEffect s { s with inputs := rest, bus := .answered tx ans,
                            history := .transaction (opField s.cmd) tx (some ans) :: s.history }
  /-- A move without effect: SEQ idle, a request not accepted, an answer not awaited. -/
  | passes (rest : List Input) : StepEffect s { s with inputs := rest }
  /-- SEQ, where the latched words do not decode (R89). -/
  | illegal {k : Nat} (rest : List Input) (hin : SeqMoves s) (hp : s.pos = .busy k) :
      StepEffect s (raiseStatus .illegal 0 0 { s with inputs := rest })
  /-- SEQ's step of the command in progress. -/
  | runs {i : Instr} {k : Nat} {rest : List Input} {t : State} (hin : SeqMoves s) (hprog : inProgress s = some (i, k))
      (h : SeqEffect i k { s with inputs := rest } t) : StepEffect s t

/-- SEQ's step is one of these effects. -/
theorem seqStep_effect {s t : State} {rest : List Input} (hin : SeqMoves s) (h : seqStep { s with inputs := rest } = .next t) :
    StepEffect s t := by
  obtain ⟨-, he⟩ | ⟨k, i, hp, hd, he⟩ | ⟨k, _, hp, -, he⟩ := seqStep_cases { s with inputs := rest } <;> rw [he] at h
  · cases h; exact .passes rest
  · exact .runs hin (inProgress_busy hp hd) (exec_effect hp h)
  · cases h; exact .illegal rest hin hp

/-- The next entry of the schedule acts, and SEQ where there is none. -/
theorem step_effect {s t : State} (h : step s = .next t) : StepEffect s t := by
  obtain ⟨hin, he⟩ | ⟨i, rest, hin, he⟩ := step_cases s <;> rw [he] at h
  · exact seqStep_effect (rest := s.inputs) (.inl hin) h
  cases i with
  | timer => cases h; exact .timer hin
  | handler => cases h; exact .handler hin
  | reset => cases h; exact .reset hin
  | request r =>
    cases h
    obtain ⟨hp, hr⟩ | ⟨_, -, hr⟩ := acceptRequest_cases r { s with inputs := rest } <;> rw [hr]
    · exact .accepts hin hp
    · exact .passes rest
  | bus ans =>
    obtain ⟨tx, -, -, rfl⟩ | ⟨-, rfl⟩ := busStep_next h
    · exact .answers tx ans rest
    · exact .passes rest
  | lateBus ans => cases h; exact .passes rest
  | seq => exact seqStep_effect (.inr (by rw [hin]; rfl)) h

end Sys2Proof.Machine
end

section
/-! The writers of the items of R20's table (10_state.md section 1), item by item, over every step. -/

namespace Sys2Proof.Machine

section
variable {s t : State} (h : StepEffect s t)
include h

/-- The parameters never change (log 1). -/
theorem StepEffect.cfg : t.cfg = s.cfg := by
  cases h with
  | handler => exact tickHandler_cfg _
  | runs _ _ he => exact he.cfg
  | _ => rfl

/-- The number of delay slots never changes (log 1). -/
theorem StepEffect.length_dly : t.dly.length = s.dly.length := by
  cases h with
  | handler => rw [tickHandler_dly]
  | reset => rw [applyReset_dly, List.length_replicate]
  | runs _ _ he =>
    cases he.delays with
    | kept hd => rw [hd]
    | armed _ _ _ hd => rw [hd, List.length_set]
    | reported _ _ _ _ _ _ hd => rw [hd, List.length_set]
  | _ => rfl

/-- The number of interval slots never changes (log 1). -/
theorem StepEffect.length_ivl : t.ivl.length = s.ivl.length := by
  cases h with
  | handler => rw [tickHandler_ivl]
  | reset => rw [applyReset_ivl, List.length_replicate]
  | runs _ _ he =>
    obtain hi | ⟨_, _, _, -, hi⟩ | ⟨_, _, -, -, hi⟩ := he.intervals
    · rw [hi]
    · rw [hi, List.length_set]
    · rw [hi, List.length_set]
  | _ => rfl

/-- The tick is written by the handler, which adds one where a tick is pending, and by reset (R22, R114). -/
theorem StepEffect.tick : t.tick = s.tick ∨
    (∃ rest, s.inputs = .handler :: rest ∧ s.tickPend = true ∧ t.tick = s.tick + 1) ∨
    (∃ rest, s.inputs = .reset :: rest ∧ t.tick = 0) := by
  cases h with
  | @handler rest hin =>
    rw [tickHandler_tick]
    split
    · exact .inr (.inl ⟨rest, hin, ‹_›, rfl⟩)
    · exact .inl rfl
  | @reset rest hin => exact .inr (.inr ⟨rest, hin, rfl⟩)
  | runs _ _ he => exact .inl he.tick
  | _ => exact .inl rfl

/-- The history only grows, by at most one event (R43, R67). -/
theorem StepEffect.history : t.history = s.history ∨ ∃ e, t.history = e :: s.history := by
  cases h with
  | handler => exact .inl (tickHandler_history _)
  | reset =>
    rw [applyReset_history, abandoned]
    split
    · exact .inr ⟨_, rfl⟩
    · exact .inl rfl
    · exact .inl rfl
  | answers => exact .inr ⟨_, rfl⟩
  | runs _ _ he => exact he.history
  | _ => exact .inl rfl

end

/-! ## Outside reset -/

/-- A list that differs in one place after a write there was written there. -/
theorem getElem?_set_changed {α : Type} {l : List α} {n m : Nat} {v x y : α} (hx : l[m]? = some x)
    (hy : (l.set n v)[m]? = some y) (hne : y ≠ x) : n = m ∧ y = v := by
  by_cases hnm : n = m
  · subst hnm
    rw [List.getElem?_set_self (List.getElem?_eq_some_iff.mp hx).1] at hy
    exact ⟨rfl, (Option.some.inj hy).symm⟩
  · rw [List.getElem?_set_ne hnm, hx] at hy
    exact absurd (Option.some.inj hy).symm hne

/-- The items that only a command in progress and reset write (R20). -/
structure SameItems (s t : State) : Prop where
  tmrEn : t.tmrEn = s.tmrEn
  ivl : t.ivl = s.ivl
  win : t.win = s.win
  ccDir : t.ccDir = s.ccDir
  ccLive : t.ccLive = s.ccLive
  ccSettle : t.ccSettle = s.ccSettle

section
variable {s t : State} (h : StepEffect s t) (hr : s.inputs.head? ≠ some .reset)
include h hr

/-- They stay, or the command in progress moves. -/
theorem StepEffect.sameItems_or_runs :
    SameItems s t ∨ ∃ i k rest, inProgress s = some (i, k) ∧ SeqEffect i k { s with inputs := rest } t := by
  cases h with
  | handler => exact .inl (by constructor <;> simp)
  | reset hin => exact absurd (by rw [hin]; rfl) hr
  | @runs i k rest _ _ hprog he => exact .inr ⟨i, k, rest, hprog, he⟩
  | _ => exact .inl ⟨rfl, rfl, rfl, rfl, rfl, rfl⟩

/-- The timer's enable is written by `CLKINIT`, to 1 (R23). -/
theorem StepEffect.tmrEn : t.tmrEn = s.tmrEn ∨ (∃ k, inProgress s = some (.clkinit, k)) ∧ t.tmrEn = true := by
  obtain hs | ⟨i, k, _, hprog, he⟩ := h.sameItems_or_runs hr
  · exact .inl hs.tmrEn
  · obtain hk | ⟨rfl, hen⟩ := he.tmrEn
    · exact .inl hk
    · exact .inr ⟨⟨k, hprog⟩, hen⟩

/-- An interval slot is written by `INEW` of it, and by `IPOLL` of it, which adds the period to the target (R26). -/
theorem StepEffect.interval {slot : Nat} {v v' : IntervalSlot} (hs : s.ivl[slot]? = some v) (ht : t.ivl[slot]? = some v')
    (hne : v' ≠ v) : (∃ period k, inProgress s = some (.inew slot period, k)) ∨
      (∃ k, inProgress s = some (.ipoll slot, k) ∧ v' = { v with target := v.target + v.period }) := by
  have kept : t.ivl ≠ s.ivl := fun hk => hne (Option.some.inj (ht.symm.trans (hk ▸ hs)))
  obtain hsame | ⟨i, k, _, hprog, he⟩ := h.sameItems_or_runs hr
  · exact absurd hsame.ivl kept
  obtain hk | ⟨slot', period, w, rfl, hi⟩ | ⟨slot', w, rfl, hw, hi⟩ := he.intervals
  · exact absurd hk kept
  · rw [hi] at ht
    obtain ⟨rfl, -⟩ := getElem?_set_changed hs ht hne
    exact .inl ⟨period, k, hprog⟩
  · rw [hi] at ht
    obtain ⟨rfl, hv⟩ := getElem?_set_changed hs ht hne
    obtain rfl : w = v := Option.some.inj (hw.symm.trans hs)
    exact .inr ⟨k, hprog, hv⟩

/-- The window is written by `FPUSH`, `CCSTEP` and `CCCYCLE` (R28). -/
theorem StepEffect.win : t.win = s.win ∨ ∃ i k, inProgress s = some (i, k) ∧ i.mnemonic ∈ ["FPUSH", "CCSTEP", "CCCYCLE"] := by
  obtain hs | ⟨i, k, _, hprog, he⟩ := h.sameItems_or_runs hr
  · exact .inl hs.win
  · exact he.win.imp_right fun hi => ⟨i, k, hprog, hi⟩

/-- The direction is written at position 2 of a control cycle (R29, R222). -/
theorem StepEffect.ccDir : t.ccDir = s.ccDir ∨
    t.ccDir = s.ccDir.flip ∧ ∃ i, inProgress s = some (i, 2) ∧ i.mnemonic ∈ ["CCSTEP", "CCCYCLE"] := by
  obtain hs | ⟨i, k, _, hprog, he⟩ := h.sameItems_or_runs hr
  · exact .inl hs.ccDir
  · exact he.ccDir.imp_right fun ⟨hflip, hk, hi⟩ => ⟨hflip, i, hk ▸ hprog, hi⟩

/-- The live sample is written at position 0 of a control cycle (R30). -/
theorem StepEffect.ccLive : t.ccLive = s.ccLive ∨ ∃ i, inProgress s = some (i, 0) ∧ i.mnemonic ∈ ["CCSTEP", "CCCYCLE"] := by
  obtain hs | ⟨i, k, _, hprog, he⟩ := h.sameItems_or_runs hr
  · exact .inl hs.ccLive
  · exact he.ccLive.imp_right fun ⟨hk, hi⟩ => ⟨i, hk ▸ hprog, hi⟩

/-- The settle target is written at position 11 of a control cycle (R30, R224). -/
theorem StepEffect.ccSettle :
    t.ccSettle = s.ccSettle ∨ ∃ i, inProgress s = some (i, 11) ∧ i.mnemonic ∈ ["CCSTEP", "CCCYCLE"] := by
  obtain hs | ⟨i, k, _, hprog, he⟩ := h.sameItems_or_runs hr
  · exact .inl hs.ccSettle
  · exact he.ccSettle.imp_right fun ⟨hk, hi⟩ => ⟨i, hk ▸ hprog, hi⟩

/-- The pending bit is set by the timer event of an enabled timer and cleared by the handler (R24). -/
theorem StepEffect.tickPend : t.tickPend = s.tickPend ∨
    (s.inputs.head? = some .timer ∧ s.tmrEn = true ∧ t.tickPend = true) ∨
    (s.inputs.head? = some .handler ∧ t.tickPend = false) := by
  cases h with
  | timer hin =>
    rw [timerEvent_tickPend]
    cases hen : s.tmrEn with
    | false => exact .inl (Bool.or_false _)
    | true => exact .inr (.inl ⟨by rw [hin]; rfl, rfl, Bool.or_true _⟩)
  | handler hin => exact .inr (.inr ⟨by rw [hin]; rfl, tickHandler_tickPend _⟩)
  | reset hin => exact absurd (by rw [hin]; rfl) hr
  | runs _ _ he => exact .inl he.tickPend
  | _ => exact .inl rfl

/-- A sticky bit is set where a command ends with a failure status, and none is cleared (R31). -/
theorem StepEffect.sticky : t.sticky = s.sticky ∨
    ((∃ k, s.pos = .busy k) ∧ t.pos = .idle ∧ t.resp.status ≠ .ok ∧ t.resp.status ≠ .wouldBlock) ∧
      s.sticky &&& t.sticky = s.sticky := by
  cases h with
  | handler => exact .inl (tickHandler_sticky _)
  | reset hin => exact absurd (by rw [hin]; rfl) hr
  | @illegal k _ _ hp => exact .inr ⟨⟨⟨k, hp⟩, rfl, nofun, nofun⟩, sticky_kept .illegal s.sticky⟩
  | @runs i k _ _ _ hprog he =>
    exact he.sticky.imp_right fun ⟨hidle, hst, hkept⟩ => ⟨⟨⟨k, (of_inProgress hprog).1⟩, hidle, hst⟩, hkept⟩
  | _ => exact .inl rfl

/-- The command registers are written by a request at an idle sequencer (R32). -/
theorem StepEffect.command : (t.cmd = s.cmd ∧ t.arg0 = s.arg0 ∧ t.arg1 = s.arg1) ∨
    s.pos = .idle ∧ ∃ r, s.inputs.head? = some (.request r) := by
  cases h with
  | handler => exact .inl ⟨tickHandler_cmd _, tickHandler_arg0 _, tickHandler_arg1 _⟩
  | reset hin => exact absurd (by rw [hin]; rfl) hr
  | @accepts r _ hin hp => exact .inr ⟨hp, r, by rw [hin]; rfl⟩
  | runs _ _ he => exact .inl ⟨he.cmd, he.arg0, he.arg1⟩
  | _ => exact .inl ⟨rfl, rfl, rfl⟩

/-- The position is written by an accepted request and by SEQ (R40). -/
theorem StepEffect.pos : t.pos = s.pos ∨
    (s.pos = .idle ∧ t.pos = .busy 0 ∧ ∃ r, s.inputs.head? = some (.request r)) ∨ ((∃ k, s.pos = .busy k) ∧ SeqMoves s) := by
  cases h with
  | handler => exact .inl (tickHandler_pos _)
  | reset hin => exact absurd (by rw [hin]; rfl) hr
  | @accepts r _ hin hp => exact .inr (.inl ⟨hp, rfl, r, by rw [hin]; rfl⟩)
  | @illegal k _ hin hp => exact .inr (.inr ⟨⟨k, hp⟩, hin⟩)
  | @runs i k _ _ hin hprog _ => exact .inr (.inr ⟨⟨k, (of_inProgress hprog).1⟩, hin⟩)
  | _ => exact .inl rfl

/-- The response is written where a command ends (R32). -/
theorem StepEffect.resp : t.resp = s.resp ∨ (∃ k, s.pos = .busy k) ∧ t.pos = .idle := by
  cases h with
  | handler => exact .inl (tickHandler_resp _)
  | reset hin => exact absurd (by rw [hin]; rfl) hr
  | @illegal k _ _ hp => exact .inr ⟨⟨k, hp⟩, rfl⟩
  | @runs i k _ _ _ hprog he => exact he.resp.imp_right fun hidle => ⟨⟨k, (of_inProgress hprog).1⟩, hidle⟩
  | _ => exact .inl rfl

end

/-- A delay slot is written by `DNEW` of it, and by `DPOLL` of it, which sets `done` (R25). -/
theorem step_delay {s t : State} (h : step s = .next t) (hr : s.inputs.head? ≠ some .reset) {slot : Nat} {d d' : DelaySlot}
    (hs : s.dly[slot]? = some d) (ht : t.dly[slot]? = some d') (hne : d' ≠ d) :
    (∃ duration k, inProgress s = some (.dnew slot duration, k)) ∨
      (∃ k, inProgress s = some (.dpoll slot, k) ∧ d' = { d with done := true }) := by
  have kept : t.dly ≠ s.dly := fun hk => hne (Option.some.inj (ht.symm.trans (hk ▸ hs)))
  obtain hk | ⟨i, k, hprog, hbecome⟩ := step_delays h hr
  · exact absurd hk kept
  cases hbecome with
  | kept hk => exact absurd hk kept
  | armed slot' duration hi hd =>
    rw [hd] at ht
    obtain ⟨rfl, -⟩ := getElem?_set_changed hs ht hne
    exact .inl ⟨duration, k, hi ▸ hprog⟩
  | reported slot' w hi hw _ _ hd =>
    rw [hd] at ht
    obtain ⟨rfl, hd'⟩ := getElem?_set_changed hs ht hne
    obtain rfl : w = d := Option.some.inj (hw.symm.trans hs)
    exact .inr ⟨k, hi ▸ hprog, hd'⟩

/-! ## The statements -/

/-- Settles O13, from the writers of the tick. -/
theorem tickChangesOnlyByHandlerOrReset : Obligations.TickChangesOnlyByHandlerOrReset :=
  fun _ _ h => (step_effect h).tick

/-- Settles O60, from the effects of a step on the history. -/
theorem historyOnlyGrows : Obligations.HistoryOnlyGrows := fun _ _ h => (step_effect h).history

/-- Settles O58, from the writers of the two items: one sets bits only, the other writes 1. -/
theorem stickyAndEnableStayUntilReset : Obligations.StickyAndEnableStayUntilReset := by
  intro s t h hr
  have he := step_effect h
  constructor
  · obtain hk | ⟨-, hkept⟩ := he.sticky hr
    · rw [hk, BitVec.and_self]
    · exact hkept
  · intro hen
    obtain hk | ⟨-, hset⟩ := he.tmrEn hr
    · rw [hk, hen]
    · exact hset

/-- Settles O59, item by item: an item that differs has been written, so by one of its writers. -/
theorem onlyNamedWritersChangeState : Obligations.OnlyNamedWritersChangeState := by
  intro s t h
  have he := step_effect h
  refine ⟨he.cfg, he.length_dly, he.length_ivl, fun hr => ⟨?tick, ?tmrEn, (he.tickPend hr).resolve_left,
    fun slot d d' => step_delay h hr, fun slot v v' => he.interval hr, (he.win hr).resolve_left, (he.ccDir hr).resolve_left,
    (he.ccLive hr).resolve_left, (he.ccSettle hr).resolve_left, ?sticky, ?command, (he.pos hr).resolve_left,
    (he.resp hr).resolve_left⟩⟩
  case tick =>
    intro hne
    obtain ⟨rest, hin, hpend, -⟩ | ⟨rest, hin, -⟩ := he.tick.resolve_left hne
    · exact ⟨by rw [hin]; rfl, hpend⟩
    · exact absurd (by rw [hin]; rfl) hr
  case tmrEn => exact fun hne => ((he.tmrEn hr).resolve_left hne).1
  case sticky => exact fun hne => ((he.sticky hr).resolve_left hne).1
  case command =>
    intro hne
    refine (he.command hr).resolve_left fun ⟨hcmd, h0, h1⟩ => ?_
    obtain hn | hn | hn := hne
    · exact hn hcmd
    · exact hn h0
    · exact hn h1

end Sys2Proof.Machine
end

section
/-! The agents' steps as the schedule names them (00_scope.md R10, 10_state.md R40), and the clock (40_clock_tick.md section 1). -/

namespace Sys2Proof.Machine

/-! ## SEQ and HOST -/

/-- Settles O5, for the two forms of the schedule that let SEQ move. -/
theorem stepRunsDecodedCommand : Obligations.StepRunsDecodedCommand := by
  intro s k i hp hd
  exact ⟨fun hin => (step_default hin).trans (seqStep_busy hp hd), fun rest hin => step_seq hin hp hd⟩

/-- A table word that the decoder reads is a request that decodes. -/
theorem decode_of_decodeTableWord {nbits w : Nat} {i : Instr} (h : decodeTableWord nbits w = some i) :
    decode (requestOfBits nbits w) = .ok i := by
  rw [decodeTableWord] at h
  cases hd : decode (requestOfBits nbits w) with
  | ok j => rw [hd] at h; cases h; rfl
  | error e => rw [hd] at h; cases h

/-- Settles O6: the placed request is latched and SEQ, to move next, decodes it. -/
theorem fetchWordRunsCommand : Obligations.FetchWordRunsCommand := by
  intro s nbits w i h
  exact step_seq (s := s.withFetchWord nbits w) rfl rfl (decode_of_decodeTableWord h)

/-- A request, as the schedule's next entry. -/
theorem step_request {s : State} {r : Request} {rest : List Input} (h : s.inputs = .request r :: rest) :
    step s = .next (acceptRequest r { s with inputs := rest }) := step_scheduled h

/-- Settles O7, for an idle and a busy sequencer. -/
theorem commandAcceptedOnlyWhileIdle : Obligations.CommandAcceptedOnlyWhileIdle := by
  intro s r rest hin
  rw [step_request hin]
  refine ⟨fun hp => ?_, fun k hp => ?_⟩
  · exact congrArg Host.Outcome.next (acceptRequest_idle (s := { s with inputs := rest }) r hp)
  · exact congrArg Host.Outcome.next (acceptRequest_busy (s := { s with inputs := rest }) r hp)

/-- Every command's step answers a next state: its meaning is `.next` on each of its paths. -/
theorem exec_next (i : Instr) (s : State) : ∃ t, exec i s = .next t := by
  have next : ∀ u : State, ∃ t, (Host.Outcome.next u : Outcome) = .next t := fun u => ⟨u, rfl⟩
  cases i <;> simp only [exec]
  case clkinit | time | stat | accinit | accrd | acctemp | maginit | magrd | magtemp | pwminit | motoff | fpush | fmean | cceval =>
    exact next _
  case dnew => unfold execDnew; split <;> exact next _
  case inew => unfold execInew; split <;> exact next _
  case wrreg => unfold execWrreg; split <;> exact next _
  case rdreg => unfold execRdreg; split <;> exact next _
  case pwmset => unfold execPwmset; split <;> exact next _
  case pwmsetm => unfold execPwmsetm; split <;> exact next _
  case motspd => unfold execMotspd; split <;> exact next _
  case motall => unfold execMotall; split <;> exact next _
  case fget => unfold execFget; split <;> exact next _
  case cccycle => unfold execCccycle; split <;> exact next _
  case ccstep => unfold execCcstep; split <;> exact next _
  case dpoll =>
    unfold execDpoll
    split
    · exact next _
    · split_ifs <;> exact next _
  case ipoll =>
    unfold execIpoll
    split
    · exact next _
    · split_ifs <;> exact next _

/-- Settles O9, by `exec_next`. -/
theorem everyCommandAnswersNext : Obligations.EveryCommandAnswersNext := exec_next

/-! ## BUS -/

/-- Settles O28, for each state of the port. -/
theorem busAnswerEntersHistory : Obligations.BusAnswerEntersHistory := by
  intro s ans rest
  refine ⟨fun hin => ?_, fun hin => (step_scheduled hin).trans rfl⟩
  rw [step_bus hin]
  refine ⟨fun tx hb hf => busStep_answer hb hf, fun tx hb hf => busStep_malformed hb hf, fun hb => ?_, fun tx old hb => ?_⟩
  · exact busStep_none fun tx h => nomatch hb.symm.trans h
  · exact busStep_none fun tx h => nomatch hb.symm.trans h

/-! ## The clock -/

/-- A handler entry of the schedule runs the handler, whatever SEQ is doing, and is used up. -/
theorem step_handler {s : State} {rest : List Input} (h : s.inputs = .handler :: rest) :
    step s = .next (tickHandler { s with inputs := rest }) := step_scheduled h

/-- The handler where a tick is pending (R111). -/
theorem tickHandler_of_pending {s : State} (h : s.tickPend = true) :
    tickHandler s = { s with tickPend := false, tick := s.tick + 1 } := by rw [tickHandler, if_pos h]

/-- The handler where none is pending: it is not enabled (log 15). -/
theorem tickHandler_of_not_pending {s : State} (h : s.tickPend = false) : tickHandler s = s := by
  rw [tickHandler, if_neg (Bool.eq_false_iff.mp h)]

/-- Settles O12, by the two cases of the pending bit. -/
theorem handlerClearsPendingAndCounts : Obligations.HandlerClearsPendingAndCounts := by
  intro s rest hin
  rw [step_handler hin]
  refine ⟨fun hp => ?_, fun hp => ?_⟩
  · exact congrArg Host.Outcome.next (tickHandler_of_pending (s := { s with inputs := rest }) hp)
  · exact congrArg Host.Outcome.next (tickHandler_of_not_pending (s := { s with inputs := rest }) hp)

/-- A timer event of an enabled timer, as the schedule's next entry. -/
theorem step_timer_enabled {s : State} {rest : List Input} (h : s.inputs = .timer :: rest) (hen : s.tmrEn = true) :
    step s = .next { s with inputs := rest, tickPend := true } :=
  (step_timer h).trans (congrArg Host.Outcome.next (timerEvent_of_enabled (s := { s with inputs := rest }) hen))

/-- The handler with a tick pending, as the schedule's next entry. -/
theorem step_handler_pending {s : State} {rest : List Input} (h : s.inputs = .handler :: rest) (hp : s.tickPend = true) :
    step s = .next { s with inputs := rest, tickPend := false, tick := s.tick + 1 } :=
  (handlerClearsPendingAndCounts s rest h).1 hp

/-- A timer event and its handler step add one tick. -/
theorem run_tick {s : State} {rest : List Input} (h : s.inputs = .timer :: .handler :: rest) (hen : s.tmrEn = true)
    (hp : s.tickPend = false) : Sys2Proof.core.run 2 s = .next { s with inputs := rest, tick := s.tick + 1 } := by
  rw [run_succ (step_timer_enabled h hen), run_succ (step_handler_pending rfl rfl), ← hp]
  rfl

/-- The schedule of one tick more. -/
theorem ticks_succ (n : Nat) : ticks (n + 1) = .timer :: .handler :: ticks n := by
  simp [ticks, List.replicate_succ]

/-- Settles O14, by induction on the number of periods. -/
theorem oneTickPerPeriod : Obligations.OneTickPerPeriod := by
  intro n
  induction n with
  | zero =>
    intro s rest _ _ hin
    have hin' : s.inputs = rest := hin
    have same : { s with inputs := rest, tick := s.tick + 0#32 } = s := by rw [BitVec.add_zero, ← hin']
    exact congrArg Host.Outcome.next same.symm
  | succ n ih =>
    intro s rest hen hp hin
    rw [ticks_succ] at hin
    have first := run_tick (rest := ticks n ++ rest) hin hen hp
    have others := ih { s with inputs := ticks n ++ rest, tick := s.tick + 1 } rest hen hp rfl
    rw [Nat.mul_succ, Nat.add_comm, run_add first, others, BitVec.add_assoc, Nat.add_comm n 1, BitVec.ofNat_add]
    rfl

/-- Settles O15: the second event finds the pending bit set. -/
theorem secondTimerEventIsLost : Obligations.SecondTimerEventIsLost := by
  intro s rest hen hin
  have first := step_timer_enabled hin hen
  have second : step { s with inputs := .timer :: .handler :: rest, tickPend := true } =
      .next { s with inputs := .handler :: rest, tickPend := true } := step_timer_enabled rfl hen
  have counted : step { s with inputs := .handler :: rest, tickPend := true } =
      .next { s with inputs := rest, tickPend := false, tick := s.tick + 1 } := step_handler_pending rfl rfl
  exact (run_succ first).trans ((run_succ second).trans (run_succ counted))

/-! ## Reset -/

/-- The reset input, as the schedule's next entry. -/
theorem step_reset {s : State} {rest : List Input} (h : s.inputs = .reset :: rest) :
    step s = .next (applyReset { s with inputs := rest }) := step_scheduled h

/-- An outstanding transaction stays in the history without an answer (R271). -/
theorem abandoned_outstanding {s : State} {tx : Transaction} (h : s.bus = .outstanding tx) :
    abandoned s = [.transaction (opField s.cmd) tx none] := by simp only [abandoned, h]

/-- With no transaction outstanding none is abandoned. -/
theorem abandoned_none {s : State} (h : ∀ tx, s.bus ≠ .outstanding tx) : abandoned s = [] := by
  cases hb : s.bus with
  | outstanding tx => exact absurd hb (h tx)
  | free => simp only [abandoned, hb]
  | answered tx ans => simp only [abandoned, hb]

/-- Settles O54: the items one by one; the history in the two cases of `abandoned`. -/
theorem resetInputRestoresResetState : Obligations.ResetInputRestoresResetState := by
  intro s rest hin
  refine ⟨applyReset { s with inputs := rest }, step_reset hin, rfl, rfl, rfl, List.length_replicate, fun d hd => ?delays,
    List.length_replicate, fun v hv => ?intervals, ?window, rfl, rfl, rfl, rfl, rfl, rfl, rfl, fun tx hb => ?_, fun hb => ?_⟩
  case delays => rw [List.eq_of_mem_replicate hd]; exact ⟨rfl, rfl⟩
  case intervals => rw [List.eq_of_mem_replicate hv]; rfl
  case window => rw [applyReset_win]; decide
  · rw [applyReset_history, abandoned_outstanding (s := { s with inputs := rest }) hb]; rfl
  · rw [applyReset_history, abandoned_none (s := { s with inputs := rest }) hb]; rfl

/-- The data at reset are legal (R13, R44). -/
theorem dataLegal_reset : DataLegal State.reset where
  cfgLegal := by simp only [State.reset, Config.wf, Config.board]; decide
  delays := by decide
  intervals := by decide
  pendEnabled := nofun
  doneArmed d hd := by rw [List.eq_of_mem_replicate hd]; exact nofun

/-- Settles O55: the values by evaluation; the invariants hold of any idle sequencer with legal data, a free port and no history. -/
theorem resetStateMeetsInvariants : Obligations.ResetStateMeetsInvariants := by
  refine ⟨rfl, rfl, rfl, fun d hd => ?_, fun v hv => ?_, rfl, rfl, rfl, rfl, inv_of_idle dataLegal_reset rfl rfl,
    motorSafe_of_noTx trivial (pendingTx_none (inProgress_idle rfl))⟩
  · rw [List.eq_of_mem_replicate hd]; exact ⟨rfl, rfl⟩
  · rw [List.eq_of_mem_replicate hv]; rfl

end Sys2Proof.Machine
end

section
/-! Operands as numbers: the bound of R12, bytes of halves and words, and the lists a sensor answers (30_encoding.md R83, R86). -/

namespace Sys2Proof.Machine

/-- A PWM operand or speed above the largest legal value, as a number (R12). -/
theorem gt_pwmMax_iff {v : Half} : v > Config.pwmMax ↔ 0xFFF < v.toNat := BitVec.lt_def

/-- A legal one. -/
theorem not_gt_pwmMax {v : Half} (h : v.toNat ≤ 0xFFF) : ¬ v > Config.pwmMax := fun hgt =>
  Nat.not_lt.mpr h (gt_pwmMax_iff.mp hgt)

/-- The low byte of a half, as a number (R172). -/
theorem low_eq (v : Half) : v.low = BitVec.ofNat 8 (v.toNat % 256) := by
  apply BitVec.eq_of_toNat_eq
  simp only [Half.low, BitVec.extractLsb'_toNat, BitVec.toNat_ofNat, Nat.shiftRight_zero]
  omega

/-- The high byte of a half, as a number (R172). -/
theorem high_eq (v : Half) : v.high = BitVec.ofNat 8 (v.toNat / 256) := by
  apply BitVec.eq_of_toNat_eq
  simp only [Half.high, BitVec.extractLsb'_toNat, BitVec.toNat_ofNat, Nat.shiftRight_eq_div_pow]

/-- A channel write with its bytes as numbers (R172). -/
theorem setPwm_eq (cfg : Config) (ch : Nat) (on off : Half) : setPwm cfg ch on off =
    .write cfg.pwmAddr [BitVec.ofNat 8 (0x06 + 4 * ch), BitVec.ofNat 8 (on.toNat % 256), BitVec.ofNat 8 (on.toNat / 256),
      BitVec.ofNat 8 (off.toNat % 256), BitVec.ofNat 8 (off.toNat / 256)] := by
  rw [setPwm, writeRegister, pwmBytes, low_eq, high_eq, low_eq, high_eq]
  rfl

/-- Lane `i` of a word is its `i`-th digit to the base 256 (R86). -/
theorem byteLane_eq (w : Word) (i : Nat) : byteLane w i = BitVec.ofNat 8 (w.toNat / 256 ^ i) := by
  apply BitVec.eq_of_toNat_eq
  simp only [byteLane, BitVec.extractLsb'_toNat, BitVec.toNat_ofNat, Nat.shiftRight_eq_div_pow, pow_mul]
  rfl

/-- The accelerometer's control byte, as a number (R151). -/
theorem accCtrlByte_eq (cfg : Config) (rate : BitVec 4) :
    accCtrlByte cfg rate = BitVec.ofNat 8 (16 * rate.toNat + cfg.accCtrlLow.toNat) := by
  have key : ∀ hi lo : BitVec 4, (hi ++ lo : Byte) = BitVec.ofNat 8 (16 * hi.toNat + lo.toNat) := by decide
  exact key rate cfg.accCtrlLow

/-- The magnetometer's rate byte, as a number (R159). -/
theorem magRateByte_eq (rate : BitVec 3) : magRateByte rate = BitVec.ofNat 8 (0x80 + 4 * rate.toNat) := by
  revert rate; decide

/-- Two halves of two bytes each are the word of the four bytes. -/
theorem append_halves (a b c d : Byte) : ((a ++ b : Half) ++ (c ++ d : Half) : Word) = a ++ b ++ c ++ d :=
  (BitVec.append_assoc (x₁ := (a ++ b : Half)) (x₂ := c) (x₃ := d)).symm

/-- So is a zero half above a half of two bytes. -/
theorem append_zero_half (a b : Byte) : (0#16 ++ (a ++ b : Half) : Word) = 0#16 ++ a ++ b :=
  (BitVec.append_assoc (x₁ := 0#16) (x₂ := a) (x₃ := b)).symm

/-- Byte `i` of `res[0]` of `RDREG` is byte `i` read (R140). -/
theorem extract_lanesLow (r : List Byte) {i : Nat} (h : i < 4) : (lanesLow r).extractLsb' (8 * i) 8 = r.getD i 0 := by
  match i, h with
  | 0, _ => exact cField_cmdWord (byteAt r 3) (byteAt r 2) (byteAt r 1) (byteAt r 0)
  | 1, _ => exact bField_cmdWord (byteAt r 3) (byteAt r 2) (byteAt r 1) (byteAt r 0)
  | 2, _ => exact aField_cmdWord (byteAt r 3) (byteAt r 2) (byteAt r 1) (byteAt r 0)
  | 3, _ => exact opField_cmdWord (byteAt r 3) (byteAt r 2) (byteAt r 1) (byteAt r 0)

/-- `res[1]` holds the lanes of the list from byte 4 on. -/
theorem lanesHigh_eq (r : List Byte) : lanesHigh r = lanesLow (r.drop 4) := by
  simp only [lanesHigh, lanesLow, byteAt, List.getD_eq_getElem?_getD, List.getElem?_drop]

/-- Byte `i` of `res[1]` is byte `4 + i` read (R140). -/
theorem extract_lanesHigh (r : List Byte) {i : Nat} (h : i < 4) :
    (lanesHigh r).extractLsb' (8 * i) 8 = r.getD (4 + i) 0 := by
  rw [lanesHigh_eq, extract_lanesLow _ h, List.getD_eq_getElem?_getD, List.getD_eq_getElem?_getD, List.getElem?_drop]

/-- A list of channels in ascending order with the members of the mask's is the mask's list (R176). -/
theorem eq_maskChannels {mask : Half} {chs : List Nat} (hs : chs.Pairwise (· < ·))
    (hm : ∀ ch, ch ∈ chs ↔ ch < 16 ∧ mask.getLsbD ch = true) : chs = maskChannels mask :=
  List.Perm.eq_of_pairwise' (hs) (maskChannels_ascending mask)
    ((List.perm_ext_iff_of_nodup hs.nodup (maskChannels_ascending mask).nodup).mpr fun ch => (hm ch).trans mem_maskChannels.symm)

end Sys2Proof.Machine
end

section
/-! The bus port at every position of every command (20_memory.md R53, R54, 60_exceptions.md R245). -/

namespace Sys2Proof.Machine

/-- Settles O26: at such a position the command's step is that transaction, on a free and on a waiting port. -/
theorem transactionIssuedThenHeld : Obligations.TransactionIssuedThenHeld := by
  intro i k tx s hp htx
  obtain ⟨cont, he, -⟩ := exec_transact hp htx
  rw [he]
  exact ⟨fun hb => congrArg Host.Outcome.next (transact_issue tx cont hb),
    fun tx' hb => congrArg Host.Outcome.next (transact_hold tx cont hb)⟩

/-- Settles O27: at such a position `Err` is followed by `raise BUS_ERROR`, with the command's count. -/
theorem busErrorEndsCommand : Obligations.BusErrorEndsCommand := by
  intro i k tx tx' e s hp htx hb
  obtain ⟨cont, he, hf⟩ := exec_transact hp htx
  rw [he, transact_answered tx cont hb, hf.err]
  rfl

end Sys2Proof.Machine
end

section
/-! Units TICK, DLY and FLT (40_clock_tick.md, 41_delay_interval.md, 46_sample_filter.md): the commands without a transaction. -/

namespace Sys2Proof.Machine

/-! ## TICK -/

/-- Settles O16: each command ends with its answer. -/
theorem clkinitAndTimeAnswer : Obligations.ClkinitAndTimeAnswer := fun _ => ⟨rfl, rfl⟩

/-- The word `STAT` reads, as a number: each item at its bit place (R115). -/
theorem toNat_statWord (sticky : BitVec 5) (dir : Direction) (pend en : Bool) : (statWord sticky dir pend en).toNat =
    en.toNat + 2 * pend.toNat + 4 * (decide (dir = .backward)).toNat + 256 * sticky.toNat := by
  cases dir <;> revert sticky pend en <;> decide

/-- Settles O17: the word is `statWord` of the four items. -/
theorem statReportsControlBits : Obligations.StatReportsControlBits := fun s =>
  ⟨statWord s.sticky s.ccDir s.tickPend s.tmrEn, rfl, toNat_statWord ..⟩

/-! ## DLY -/

/-- Settles O19, on the two sides of the slot bound. -/
theorem dnewArmsDelay : Obligations.DnewArmsDelay := by
  intro slot duration s
  refine ⟨fun h => ?_, fun h => ?_⟩
  · rw [exec, execDnew, State.nDelay, if_neg (Nat.not_le.mpr h)]
    rfl
  · rw [exec, execDnew, State.nDelay, if_pos h]
    rfl

/-- Settles O20, by the five outcomes of a poll. -/
theorem dpollAnswers : Obligations.DpollAnswers := by
  intro slot s
  refine ⟨fun h => dpoll_noSlot (List.getElem?_eq_none h), fun d hs => ⟨dpoll_unarmed hs, dpoll_done hs, fun ha hd hr => ?_,
    fun ha hd hr => dpoll_notReady hs ha hd (not_ready_iff.mpr hr)⟩⟩
  rw [dpoll_ready hs ha hd (ready_iff.mpr hr), ha]
  rfl

/-- Settles O23, on the two sides of the slot bound. -/
theorem inewArmsInterval : Obligations.InewArmsInterval := by
  intro slot period s
  refine ⟨fun h => ?_, fun h => ?_⟩
  · rw [exec, execInew, State.nInterval, if_neg (Nat.not_le.mpr h)]
    rfl
  · rw [exec, execInew, State.nInterval, if_pos h]
    rfl

section
variable {slot : Nat} {s : State} {v : IntervalSlot}

/-- `IPOLL` past the last slot (R126). -/
theorem ipoll_noSlot (h : s.ivl[slot]? = none) : execIpoll slot s = .next (raiseRange s) := by
  simp only [execIpoll, h]

/-- `IPOLL` of a slot that was never armed. -/
theorem ipoll_unarmed (h : s.ivl[slot]? = some v) (ha : v.armed = false) :
    execIpoll slot s = .next (raiseStatus .unarmed 0 0 s) := by
  simp only [execIpoll, h, ha, if_true]

/-- `IPOLL` that fires moves the target on from the boundary. -/
theorem ipoll_ready (h : s.ivl[slot]? = some v) (ha : v.armed = true) (hr : ready v.target s.tick = true) :
    execIpoll slot s =
      .next (respond .ok 1 0 { s with ivl := s.ivl.set slot ⟨true, v.target + v.period, v.period⟩ }) := by
  simp only [execIpoll, h, ha, now, hr, Bool.true_eq_false, if_false, if_true]

/-- `IPOLL` before the target. -/
theorem ipoll_notReady (h : s.ivl[slot]? = some v) (ha : v.armed = true) (hr : ready v.target s.tick = false) :
    execIpoll slot s = .next (respond .ok 0 0 s) := by
  simp only [execIpoll, h, ha, now, hr, Bool.true_eq_false, Bool.false_eq_true, if_false]

end

/-- Settles O24, by the four outcomes of a poll. -/
theorem ipollAnswers : Obligations.IpollAnswers := by
  intro slot s
  exact ⟨fun h => ipoll_noSlot (List.getElem?_eq_none h), fun v hs => ⟨ipoll_unarmed hs,
    fun ha hr => ipoll_ready hs ha (ready_iff.mpr hr), fun ha hr => ipoll_notReady hs ha (not_ready_iff.mpr hr)⟩⟩

/-! ### An interval polled late (R127) -/

section
variable {tick target period : Word} {j : Nat}

/-- A number of periods that does not overflow, as a number. -/
theorem toNat_periods (h : j * period.toNat < 2 ^ 32) : (BitVec.ofNat 32 j * period).toNat = j * period.toNat := by
  rw [BitVec.toNat_mul, BitVec.toNat_ofNat, Nat.mod_mul_mod, Nat.mod_eq_of_lt h]

/-- A boundary that the tick has crossed is reached. -/
theorem ready_boundary (hlate : (tick - target).toNat < 2 ^ 31) (h : j * period.toNat ≤ (tick - target).toNat) :
    ready (target + BitVec.ofNat 32 j * period) tick = true := by
  rw [ready_iff, sub_add_eq_sub_sub, BitVec.toNat_sub, toNat_periods (by omega)]
  omega

/-- The first boundary that it has not crossed, at most half the range ahead, is not. -/
theorem not_ready_boundary (hlate : (tick - target).toNat < 2 ^ 31) (h : (tick - target).toNat < j * period.toNat)
    (hnear : j * period.toNat ≤ (tick - target).toNat + 2 ^ 31) :
    ready (target + BitVec.ofNat 32 j * period) tick = false := by
  rw [not_ready_iff, sub_add_eq_sub_sub, BitVec.toNat_sub, toNat_periods (by omega)]
  omega

/-- One boundary more. -/
theorem boundary_succ : target + BitVec.ofNat 32 j * period + period = target + BitVec.ofNat 32 (j + 1) * period := by
  rw [BitVec.ofNat_add, BitVec.add_mul, BitVec.one_mul, BitVec.add_assoc]

end

section
variable {slot : Nat} {s : State}

/-- A poll that fires at boundary `j` leaves the target at boundary `j + 1`. -/
theorem afterPolls_succ {n j : Nat} {target period : Word} (hs : (afterPolls slot n s).ivl[slot]? =
      some ⟨true, target + BitVec.ofNat 32 j * period, period⟩)
    (hr : ready (target + BitVec.ofNat 32 j * period) (afterPolls slot n s).tick = true) :
    (afterPolls slot (n + 1) s).tick = (afterPolls slot n s).tick ∧ (afterPolls slot (n + 1) s).resp = ⟨.ok, 1, 0⟩ ∧
      (afterPolls slot (n + 1) s).ivl[slot]? = some ⟨true, target + BitVec.ofNat 32 (j + 1) * period, period⟩ := by
  rw [afterPolls, ipoll_ready hs rfl hr]
  refine ⟨rfl, rfl, ?_⟩
  rw [← boundary_succ]
  exact List.getElem?_set_self (List.getElem?_eq_some_iff.mp hs).1

/-- As long as the tick has crossed the boundaries, each poll fires. -/
theorem afterPolls_fired {target period : Word} (hs : s.ivl[slot]? = some ⟨true, target, period⟩)
    (hlate : (s.tick - target).toNat < 2 ^ 31) (j : Nat) (hj : j * period.toNat ≤ (s.tick - target).toNat) :
    (afterPolls slot (j + 1) s).tick = s.tick ∧ (afterPolls slot (j + 1) s).resp = ⟨.ok, 1, 0⟩ ∧
      (afterPolls slot (j + 1) s).ivl[slot]? = some ⟨true, target + BitVec.ofNat 32 (j + 1) * period, period⟩ := by
  induction j with
  | zero =>
    have first : target + BitVec.ofNat 32 0 * period = target := by
      rw [BitVec.zero_mul, BitVec.add_zero]
    exact afterPolls_succ (n := 0) (by rw [first]; exact hs) (ready_boundary hlate hj)
  | succ j ih =>
    obtain ⟨htick, -, hivl⟩ := ih (le_trans (Nat.mul_le_mul_right _ (Nat.le_succ j)) hj)
    obtain ⟨htick', hresp, hivl'⟩ := afterPolls_succ hivl (by rw [htick]; exact ready_boundary hlate hj)
    exact ⟨htick'.trans htick, hresp, hivl'⟩

end

/-- Settles O25: the boundaries crossed are those of the division of `late` by the period. -/
theorem lateIntervalFiresOncePerBoundary : Obligations.LateIntervalFiresOncePerBoundary := by
  intro s slot v late hs ha hlate hlt hpos hle
  obtain ⟨_, target, period⟩ := v
  obtain rfl : _ = true := ha
  subst hlate
  dsimp only at hlt hpos hle ⊢
  have crossed : ∀ j, j ≤ (s.tick - target).toNat / period.toNat → j * period.toNat ≤ (s.tick - target).toNat :=
    fun j => (Nat.le_div_iff_mul_le hpos).mp
  refine ⟨fun j hj => (afterPolls_fired hs hlt j (crossed j hj)).2, ?_⟩
  obtain ⟨htick, -, hivl⟩ := afterPolls_fired hs hlt _ (crossed _ le_rfl)
  have ahead : (s.tick - target).toNat < ((s.tick - target).toNat / period.toNat + 1) * period.toNat :=
    Nat.lt_mul_of_div_lt (Nat.lt_succ_self _) hpos
  have near := crossed _ le_rfl
  have hr := not_ready_boundary hlt ahead (by rw [Nat.succ_mul]; omega)
  rw [afterPolls, ipoll_notReady hivl rfl (by rw [htick]; exact hr)]
  exact ⟨rfl, hivl⟩

/-! ## FLT -/

/-- Settles O45, by induction on the samples: a push drops the oldest and appends the new one. -/
theorem windowRetainsLastFive : Obligations.WindowRetainsLastFive := by
  intro w l
  induction l generalizing w with
  | nil => rw [List.append_nil]; rfl
  | cons smp l ih => exact ih (w.push smp)

/-- Settles O47, on the two sides of the index bound. -/
theorem fgetReturnsElement : Obligations.FgetReturnsElement := by
  intro idx s
  refine ⟨fun smp h => ?_, fun h => ?_⟩
  · have hget : s.win.get? idx = some smp := h
    rw [exec, execFget, hget]
    exact congrArg Host.Outcome.next (respondSample_eq smp s)
  · have hget : s.win.get? idx = none := List.getElem?_eq_none h
    rw [exec, execFget, hget]
    rfl

end Sys2Proof.Machine
end

section
/-! Units RBC, SNS, PWM and the motors (42_register_bus_codec.md, 43_sensor_drivers.md, 44_pwm_driver.md, 45_motor.md): the commands
with transactions, at each of their positions. -/

namespace Sys2Proof.Machine

section
variable {s : State} {tx : Transaction} {f : List Byte → State → State}

/-- A `try` on a free port, as an outcome. -/
theorem next_try_issue (hb : s.bus = .free) :
    (.next (tryTransaction tx f s) : Outcome) = .next { s with bus := .outstanding tx } :=
  congrArg _ (tryTransaction_issue tx f hb)

/-- A `try` that takes an `Ok`, as an outcome. -/
theorem next_try_ok {tx' : Transaction} {r : List Byte} (hb : s.bus = .answered tx' (.ok r)) :
    (.next (tryTransaction tx f s) : Outcome) = .next (f r { s with bus := .free }) :=
  congrArg _ (tryTransaction_ok tx f hb)

end

section
variable {s : State} {k base : Nat} {txs : List Transaction} {done : State → State} {fail : Word → Nat → State → State}

/-- The position's index in a sequence of transactions that begins at `base`. -/
theorem index_sub {i : Nat} (hp : s.pos = .busy (base + i)) : s.pos.index - base = i := by
  rw [hp, index_busy, Nat.add_sub_cancel_left]

/-- A sequence at its `i`-th position on a free port, as an outcome. -/
theorem next_sequence_issue {i : Nat} {tx : Transaction} (hp : s.pos = .busy (base + i)) (h : txs[i]? = some tx)
    (hb : s.bus = .free) : (.next (writeSequence base txs done fail s) : Outcome) = .next { s with bus := .outstanding tx } :=
  congrArg _ (writeSequence_issue (index_sub hp) h hb)

/-- A sequence that takes an `Ok` before its last, as an outcome. -/
theorem next_sequence_ok {i : Nat} {tx : Transaction} {r : List Byte} (hp : s.pos = .busy (base + i))
    (h : i + 1 < txs.length) (hb : s.bus = .answered tx (.ok r)) : (.next (writeSequence base txs done fail s) : Outcome) =
      .next { s with bus := .free, pos := .busy (base + i + 1) } :=
  congrArg _ (writeSequence_ok (index_sub hp) h hb)

/-- A sequence that takes its last `Ok`, as an outcome. -/
theorem next_sequence_last {i : Nat} {tx : Transaction} {r : List Byte} (hp : s.pos = .busy (base + i))
    (h : i + 1 = txs.length) (hb : s.bus = .answered tx (.ok r)) : (.next (writeSequence base txs done fail s) : Outcome) =
      .next (done { s with bus := .free }) :=
  congrArg _ (writeSequence_last (index_sub hp) h hb)

/-- A sequence that begins at position 0 and ends with OK takes an `Ok`, as the statements give it. -/
theorem next_sequence_taken {i : Nat} {tx : Transaction} {r : List Byte} {r0 r1 : Word} (hp : s.pos = .busy i)
    (hi : i < txs.length) (hb : s.bus = .answered tx (.ok r)) :
    (.next (writeSequence 0 txs (respond .ok r0 r1) fail s) : Outcome) =
      if i + 1 < txs.length then .next { s with bus := .free, pos := .busy (i + 1) }
      else .next { s with bus := .free, resp := ⟨.ok, r0, r1⟩, respValid := true, pos := .idle } := by
  have hp0 : s.pos = .busy (0 + i) := by rw [hp, Nat.zero_add]
  split
  · rw [next_sequence_ok hp0 ‹_› hb, Nat.zero_add]
  · exact next_sequence_last hp0 (by omega) hb

end

/-! ## RBC -/

/-- `WRREG` with a legal count is one write (R137). -/
theorem exec_wrreg {n : Nat} (h1 : 1 ≤ n) (h4 : n ≤ 4) (dev : DevAddr) (reg : Byte) (data : Word) (s : State) :
    exec (.wrreg dev reg n data) s =
      .next (tryTransaction (writeRegister dev reg (dataBytes data n)) (fun _ => respond .ok 0 0) s) := by
  rw [exec, execWrreg, if_neg (by omega)]

/-- `RDREG` with a legal count is one read (R140). -/
theorem exec_rdreg {n : Nat} (h1 : 1 ≤ n) (h8 : n ≤ 8) (dev : DevAddr) (reg : Byte) (ai : Bool) (s : State) :
    exec (.rdreg dev reg ai n) s =
      .next (tryTransaction (readRegisters dev reg n ai) (fun r => respond .ok (lanesLow r) (lanesHigh r)) s) := by
  rw [exec, execRdreg, if_neg (by omega)]

/-- Settles O29, on the two sides of the count's range; a lane is a digit to the base 256. -/
theorem wrregWritesBytes : Obligations.WrregWritesBytes := by
  intro dev reg n data s
  refine ⟨fun h => ?_, fun h1 h4 => ?_⟩
  · rw [exec, execWrreg, if_pos h]
    rfl
  · have hlanes : dataBytes data n = (List.range n).map fun i => BitVec.ofNat 8 (data.toNat / 256 ^ i) :=
      List.map_congr_left fun i _ => byteLane_eq data i
    rw [exec_wrreg h1 h4, hlanes]
    exact ⟨fun hb => next_try_issue hb, fun tx r hb => next_try_ok hb⟩

/-- Settles O30, on the two sides of the count's range. -/
theorem rdregReturnsLanes : Obligations.RdregReturnsLanes := by
  intro dev reg ai n s
  refine ⟨fun h => ?_, fun h1 h8 => ?_⟩
  · rw [exec, execRdreg, if_pos h]
    rfl
  · rw [exec_rdreg h1 h8]
    refine ⟨fun hb => next_try_issue hb, fun tx r hb _ => ⟨lanesLow r, lanesHigh r, next_try_ok hb, ?_, ?_⟩⟩
    · exact fun i => extract_lanesLow r
    · exact fun i => extract_lanesHigh r

/-! ## SNS -/

/-- Settles O31: one `try`, on a free port and on an answered one. -/
theorem accinitWritesControl : Obligations.AccinitWritesControl := by
  intro rate s
  rw [exec, execAccinit, accCtrlByte_eq]
  exact ⟨fun hb => next_try_issue hb, fun tx r hb => next_try_ok hb⟩

/-- The accelerometer's start byte is 0xA8 (R152). -/
theorem accRead_eq (cfg : Config) : accRead cfg = .writeThenRead cfg.accAddr [0xA8] 6 := by
  have start : startByte Config.accOutReg true = 0xA8 := by decide
  rw [accRead, readRegisters, start]

/-- Settles O33: the sample read is packed as R83 asks. -/
theorem accrdReturnsSample : Obligations.AccrdReturnsSample := by
  intro s
  rw [exec, execAccrd, accRead_eq]
  refine ⟨fun hb => next_try_issue hb, fun tx r0 r1 r2 r3 r4 r5 hb => ?_⟩
  rw [next_try_ok hb, respondSample_eq, accDecode_bytes, append_halves, append_zero_half]

/-- Settles O34: the sample read is packed as R83 asks. -/
theorem magrdReturnsSample : Obligations.MagrdReturnsSample := by
  intro s
  refine ⟨fun hb => next_try_issue hb, fun tx r0 r1 r2 r3 r4 r5 hb => ?_⟩
  have decoded : magDecode [r0, r1, r2, r3, r4, r5] = ⟨r0 ++ r1, r4 ++ r5, r2 ++ r3⟩ := rfl
  rw [exec, execMagrd, next_try_ok hb, respondSample_eq, decoded, append_halves, append_zero_half]

/-- Settles O35: both commands raise UNSUPPORTED. -/
theorem temperatureReadsUnsupported : Obligations.TemperatureReadsUnsupported := fun _ => ⟨rfl, rfl⟩

/-- Settles O36: the two writes are a sequence from position 0. -/
theorem maginitModeThenRate : Obligations.MaginitModeThenRate := by
  intro rate s
  have writes : (magInitWrites s.cfg rate)[1]? =
      some (.write s.cfg.magAddr [0x00, BitVec.ofNat 8 (0x80 + 4 * rate.toNat)]) := by
    rw [← magRateByte_eq]
    rfl
  exact ⟨fun hp hb => next_sequence_issue (i := 0) hp rfl hb, fun tx r hp hb => next_sequence_ok (i := 0) hp Nat.one_lt_two hb,
    fun hp hb => next_sequence_issue (i := 1) hp writes hb, fun tx r hp hb => next_sequence_last (i := 1) hp rfl hb⟩

/-! ## PWM -/

/-- Settles O37: one `try`, on a free port and on an answered one. -/
theorem pwminitWritesMode : Obligations.PwminitWritesMode :=
  fun _ => ⟨fun hb => next_try_issue hb, fun _ _ hb => next_try_ok hb⟩

/-- Settles O38, on the two sides of the operands' ranges. -/
theorem pwmsetWritesChannel : Obligations.PwmsetWritesChannel := by
  intro ch on off s
  refine ⟨fun h => ?_, fun hch hon hoff => ?_⟩
  · have out : ch > 15 ∨ on > Config.pwmMax ∨ off > Config.pwmMax := by rwa [gt_pwmMax_iff, gt_pwmMax_iff]
    rw [exec, execPwmset, if_pos out]
    rfl
  · have legal : ¬ (ch > 15 ∨ on > Config.pwmMax ∨ off > Config.pwmMax) := by
      rw [gt_pwmMax_iff, gt_pwmMax_iff]
      omega
    rw [exec, execPwmset, if_neg legal, setPwm_eq]
    exact ⟨fun hb => next_try_issue hb, fun tx r hb => next_try_ok hb⟩

/-- Settles O39: the listed channels are those of the mask, so the writes are a sequence from position 0. -/
theorem pwmsetmWritesSelectedChannels : Obligations.PwmsetmWritesSelectedChannels := by
  intro mask on off s chs hasc hmem
  obtain rfl := eq_maskChannels hasc hmem
  refine ⟨fun h => ?_, fun hon hoff => ?_⟩
  · have out : on > Config.pwmMax ∨ off > Config.pwmMax := by rwa [gt_pwmMax_iff, gt_pwmMax_iff]
    rw [exec, execPwmsetm, if_pos out]
    rfl
  · rw [exec, execPwmsetm, if_neg (not_or.mpr ⟨not_gt_pwmMax hon, not_gt_pwmMax hoff⟩)]
    dsimp only
    refine ⟨fun hmask => ?_, fun k ch hp hk => ⟨fun hb => ?_, fun tx r hb => ?_⟩⟩
    · subst hmask
      rw [writeSequence_none rfl (by rw [pwmsetmWrites, maskChannels_zero]; rfl), pwmsetmWrites_length, maskChannels_zero]
      rfl
    · have hw : (pwmsetmWrites s.cfg mask on off)[k]? = some (setPwm s.cfg ch on off) := by
        rw [pwmsetmWrites, List.getElem?_map, hk]
        rfl
      rw [← setPwm_eq]
      exact next_sequence_issue (i := k) (by rw [hp, Nat.zero_add]) hw hb
    · have hlt : k < (pwmsetmWrites s.cfg mask on off).length := by
        rw [pwmsetmWrites_length]
        exact (List.getElem?_eq_some_iff.mp hk).1
      rw [next_sequence_taken hp hlt hb, pwmsetmWrites_length]

/-! ## Motors -/

/-- `MOTSPD` with a legal speed is the two writes of `set_motor_speed` (R188). -/
theorem exec_motspd {speed : Half} (h : speed.toNat ≤ 0xFFF) (m : Motor) (d : Direction) (s : State) :
    exec (.motspd m d speed) s =
      .next (writeSequence 0 (setMotorSpeed s.cfg m d speed) (respond .ok 0 0) busErrorPlain s) := by
  rw [exec, execMotspd, if_neg (not_gt_pwmMax h)]

/-- `MOTALL` with a legal speed is the eight writes of `drive_all` (R192). -/
theorem exec_motall {speed : Half} (h : speed.toNat ≤ 0xFFF) (d : Direction) (s : State) :
    exec (.motall d speed) s = .next (writeSequence 0 (driveAll s.cfg d speed) (respond .ok 0 8) busErrorCounted s) := by
  rw [exec, execMotall, if_neg (not_gt_pwmMax h)]

/-- Settles O40: the antagonist's write is the first of the sequence. -/
theorem motspdAntagonistFirst : Obligations.MotspdAntagonistFirst := by
  intro m d speed s
  refine ⟨fun h => ?_, fun h => ?_⟩
  · rw [exec, execMotspd, if_pos (gt_pwmMax_iff.mpr h)]
    rfl
  · rw [exec_motspd h]
    exact ⟨fun hp hb => next_sequence_issue (i := 0) hp rfl hb, fun tx r hp hb => next_sequence_ok (i := 0) hp Nat.one_lt_two hb,
      fun hp hb => next_sequence_issue (i := 1) hp rfl hb, fun tx r hp hb => next_sequence_last (i := 1) hp rfl hb⟩

/-- The off-write of a channel with its bytes written out (R190). -/
theorem channelOff_eq (cfg : Config) (ch : Nat) :
    channelOff cfg ch = .write cfg.pwmAddr [BitVec.ofNat 8 (0x06 + 4 * ch), 0x00, 0x00, 0xFF, 0x0F] := setPwm_eq ..

/-- Settles O41: the off-writes are a sequence from position 0. -/
theorem motoffWritesEightChannelsOff : Obligations.MotoffWritesEightChannelsOff := by
  intro k s hp hk
  rw [exec, execMotoff]
  refine ⟨fun hb => ?_, fun tx r hb => ?_⟩
  · rw [← channelOff_eq]
    exact next_sequence_issue (i := k) (by rw [hp, Nat.zero_add]) (allOff_getElem? hk) hb
  · have hlt : k < (allOff s.cfg).length := hk
    rw [next_sequence_taken hp hlt hb, allOff_length]
    simp only [Nat.lt_succ_iff, Nat.succ_le_iff]

/-- Settles O42: the writes are a sequence from position 0, two for each motor in the order of R192. -/
theorem motallDrivesFourMotors : Obligations.MotallDrivesFourMotors := by
  intro d speed s
  refine ⟨fun h => ?_, fun h => ?_⟩
  · rw [exec, execMotall, if_pos (gt_pwmMax_iff.mpr h)]
    rfl
  · rw [exec_motall h]
    refine ⟨fun j m hm hb => ⟨fun hp => ?_, fun hp => ?_⟩, fun k tx r hp hk hb => ?_⟩
    · exact next_sequence_issue (i := 2 * j) (by rw [hp, Nat.zero_add]) (driveAll_even hm) hb
    · exact next_sequence_issue (i := 2 * j + 1) (by rw [hp, Nat.zero_add]) (driveAll_odd hm) hb
    · have hlt : k < (driveAll s.cfg d speed).length := hk
      rw [next_sequence_taken hp hlt hb, driveAll_length]
      simp only [Nat.lt_succ_iff, Nat.succ_le_iff]

end Sys2Proof.Machine
end

section
/-! The control cycle, position by position (47_collision_fsm.md R218 to R231). -/

namespace Sys2Proof.Machine

/-! ## Result words -/

/-- A bit as a word (R218). -/
theorem boolWord_eq (b : Bool) : boolWord b = if b then 1 else 0 := by cases b <;> rfl

/-- The direction's bit as a word (R29, R220). -/
theorem boolWord_bit (d : Direction) : boolWord d.bit = if d = .backward then 1 else 0 := by cases d <;> rfl

/-- The indicator's value by the direction (R226). -/
theorem indicatorValue_eq (cfg : Config) (d : Direction) :
    indicatorValue cfg d = if d = .forward then cfg.indFwd else cfg.indBwd := by cases d <;> rfl

/-- Settles O49, by the detector's two answers. -/
theorem ccevalAnswersDetection : Obligations.CcevalAnswersDetection := by
  intro live s
  have answer : exec (.cceval live) s = .next (respond .ok (boolWord (detect live (mean s.cfg s.win))) 0 s) := rfl
  rw [answer]
  refine ⟨fun h => ?_, fun h => ?_⟩
  · rw [h]; rfl
  · rw [h]; rfl

/-! ## The two ways on from position 1 (R220) -/

section
variable {s : State}

theorem cycleFrom_hit (hp : s.pos = .busy 1) (h : detect s.ccLive (mean s.cfg s.win) = true) : cycleFrom s = goto 2 s := by
  rw [cycleFrom_detect hp, ccDetect, collides, if_pos h]

theorem cycleFrom_quiet (hp : s.pos = .busy 1) (h : detect s.ccLive (mean s.cfg s.win) = false) :
    cycleFrom s = goto 22 s := by
  rw [cycleFrom_detect hp, ccDetect, collides, if_neg (Bool.eq_false_iff.mp h)]

end

/-! ## The positions with a transaction -/

section
variable {s : State}

/-- Positions 3 to 10 are `all_off` (R223). -/
theorem cycleFrom_stop {ch : Nat} (hch : ch < 8) (hp : s.pos = .busy (3 + ch)) : cycleFrom s = ccStop s := by
  simp only [cycleFrom, hp, index_busy]
  rw [if_neg (by omega), if_neg (by omega), if_pos (by omega)]

/-- Positions 13 to 20 are `drive_all` (R225). -/
theorem cycleFrom_drive {j : Nat} (hj : j < 8) (hp : s.pos = .busy (13 + j)) : cycleFrom s = ccDrive s := by
  simp only [cycleFrom, hp, index_busy]
  rw [if_neg (by omega), if_neg (by omega), if_neg (by omega), if_neg (by omega), if_neg (by omega), if_pos (by omega)]

/-- A sequence that ends at the position after its last one goes on by one position at each `Ok`. -/
theorem next_sequence_goto {base i : Nat} {txs : List Transaction} {fail : Word → Nat → State → State} {tx : Transaction}
    {r : List Byte} (hp : s.pos = .busy (base + i)) (hi : i < txs.length) (hb : s.bus = .answered tx (.ok r)) :
    (.next (writeSequence base txs (goto (base + txs.length)) fail s) : Outcome) =
      .next (goto (base + i + 1) { s with bus := .free }) := by
  by_cases h : i + 1 < txs.length
  · exact next_sequence_ok hp h hb
  · have hlast : i + 1 = txs.length := by omega
    rw [next_sequence_last hp hlast hb, ← hlast, Nat.add_assoc]

end

section
variable {i : Instr} {s : State} (hi : isCycle i = true)
include hi

/-- An off-write is issued. -/
theorem exec_stop_issue {ch : Nat} (hch : ch < 8) (hp : s.pos = .busy (3 + ch)) (hb : s.bus = .free) :
    exec i s = .next { s with bus := .outstanding (channelOff s.cfg ch) } := by
  rw [exec_cycle (k := 2 + ch) hi (by rw [hp]; congr 1; omega), cycleFrom_stop hch hp]
  exact next_sequence_issue hp (allOff_getElem? hch) hb

/-- An off-write's `Ok` is taken. -/
theorem exec_stop_ok {ch : Nat} {tx : Transaction} {r : List Byte} (hch : ch < 8) (hp : s.pos = .busy (3 + ch))
    (hb : s.bus = .answered tx (.ok r)) : exec i s = .next (goto (3 + ch + 1) { s with bus := .free }) := by
  rw [exec_cycle (k := 2 + ch) hi (by rw [hp]; congr 1; omega), cycleFrom_stop hch hp]
  exact next_sequence_goto (txs := allOff s.cfg) hp hch hb

/-- A drive write is issued. -/
theorem exec_drive_issue {j : Nat} {tx : Transaction} (hj : j < 8) (hp : s.pos = .busy (13 + j))
    (htx : (driveAll s.cfg s.ccDir (driveSpeed s.cfg))[j]? = some tx) (hb : s.bus = .free) :
    exec i s = .next { s with bus := .outstanding tx } := by
  rw [exec_cycle (k := 12 + j) hi (by rw [hp]; congr 1; omega), cycleFrom_drive hj hp]
  exact next_sequence_issue hp htx hb

/-- A drive write's `Ok` is taken. -/
theorem exec_drive_ok {j : Nat} {tx : Transaction} {r : List Byte} (hj : j < 8) (hp : s.pos = .busy (13 + j))
    (hb : s.bus = .answered tx (.ok r)) : exec i s = .next (goto (13 + j + 1) { s with bus := .free }) := by
  rw [exec_cycle (k := 12 + j) hi (by rw [hp]; congr 1; omega), cycleFrom_drive hj hp]
  exact next_sequence_goto (txs := driveAll s.cfg s.ccDir (driveSpeed s.cfg)) hp hj hb

/-! ## The positions without one -/

/-- Position 1 (R220). -/
theorem exec_detect (hp : s.pos = .busy 1) :
    exec i s = .next { s with pos := if detect s.ccLive (mean s.cfg s.win) then .busy 2 else .busy 22 } := by
  rw [exec_cycle hi hp]
  cases h : detect s.ccLive (mean s.cfg s.win) with
  | true => rw [cycleFrom_hit hp h]; rfl
  | false => rw [cycleFrom_quiet hp h]; rfl

/-- Position 2 (R222). -/
theorem exec_toggle (hp : s.pos = .busy 2) : exec i s = .next { s with ccDir := s.ccDir.flip, pos := .busy 3 } := by
  rw [exec_cycle hi hp, cycleFrom_toggle hp]
  rfl

/-- Position 11 (R224). -/
theorem exec_armSettle (hp : s.pos = .busy 11) :
    exec i s = .next { s with ccSettle := s.tick + 1000, pos := .busy 12 } := by
  rw [exec_cycle hi hp, cycleFrom_armSettle hp]
  rfl

/-- Position 12 (R224). -/
theorem exec_settleWait (hp : s.pos = .busy 12) :
    exec i s = .next { s with pos := if ready s.ccSettle s.tick then .busy 13 else .busy 12 } := by
  rw [exec_cycle hi hp]
  cases hr : ready s.ccSettle s.tick with
  | true => rw [cycleFrom_settleDone hp hr]; rfl
  | false => rw [cycleFrom_settleHold hp hr, if_neg Bool.false_ne_true, ← hp]

/-- Position 21 (R226). -/
theorem exec_indicate (hp : s.pos = .busy 21) : exec i s =
    .next { s with history := .indicator (if s.ccDir = .forward then s.cfg.indFwd else s.cfg.indBwd) :: s.history,
                   pos := .busy 22 } := by
  rw [exec_cycle hi hp, cycleFrom_indicate hp, ccIndicate, indicatorValue_eq]
  rfl

/-- Position 22 (R220). -/
theorem exec_finish (hp : s.pos = .busy 22) : exec i s =
    .next { s with win := ⟨s.win.w1, s.win.w2, s.win.w3, s.win.w4, s.ccLive⟩, respValid := true, pos := .idle,
                   resp := ⟨.ok, if detect s.ccLive (mean s.cfg s.win) then 1 else 0,
                            if s.ccDir = .backward then 1 else 0⟩ } := by
  rw [exec_cycle hi hp, cycleFrom_finish hp, ccFinish, boolWord_eq, boolWord_bit]
  rfl

end

/-- Position 0 of `CCSTEP` (R220). -/
theorem exec_ccstep_zero {s : State} (live : Sample) (hp : s.pos = .busy 0) :
    exec (.ccstep live) s = .next { s with ccLive := live, pos := .busy 1 } := by
  simp only [exec, execCcstep, hp, index_busy, if_true]
  rfl

/-- Position 0 of `CCCYCLE` (R231). -/
theorem exec_cccycle_zero {s : State} (hp : s.pos = .busy 0) : exec .cccycle s =
    .next (tryTransaction (accRead s.cfg) (fun r s' => goto 1 { s' with ccLive := accDecode r }) s) := by
  simp only [exec, execCccycle, hp, index_busy, if_true]

/-- Settles O50, clause by clause. -/
theorem ccstepFollowsPositions : Obligations.CcstepFollowsPositions := by
  intro live s
  refine ⟨exec_ccstep_zero live, exec_detect rfl, exec_toggle rfl, fun ch hch hp hb => exec_stop_issue rfl hch hp hb,
    fun ch tx r hch hp hb => ?stop, exec_armSettle rfl, exec_settleWait rfl,
    fun j m hm hb => ⟨fun hp => ?antagonist, fun hp => ?drive⟩, fun k tx r hk hp hb => ?driven, exec_indicate rfl, exec_finish rfl⟩
  case stop =>
    rw [exec_stop_ok rfl hch hp hb, show 3 + ch + 1 = 4 + ch by omega]
    rfl
  case driven =>
    rw [exec_drive_ok rfl hk hp hb, show 13 + k + 1 = 14 + k by omega]
    rfl
  all_goals have hj : j < 4 := (List.getElem?_eq_some_iff.mp hm).1
  case antagonist => exact exec_drive_issue rfl (by omega) hp (driveAll_even hm) hb
  case drive =>
    have hp' : s.pos = .busy (13 + (2 * j + 1)) := by rw [hp]; congr 1; omega
    exact exec_drive_issue rfl (by omega) hp' (driveAll_odd hm) hb

/-- Settles O51: position 0 is `ACCRD`'s read, and from position 1 on the two cycles are one. -/
theorem cccycleReadsThenFollowsCcstep : Obligations.CccycleReadsThenFollowsCcstep := by
  intro s
  refine ⟨fun hp hb => ?_, fun tx r0 r1 r2 r3 r4 r5 hp hb => ?_, fun k live hp => ?_, exec_finish rfl⟩
  · rw [exec_cccycle_zero hp, accRead_eq]
    exact next_try_issue hb
  · rw [exec_cccycle_zero hp, next_try_ok hb, accDecode_bytes]
    rfl
  · rw [exec_cycle rfl hp, exec_cycle rfl hp]

end Sys2Proof.Machine
end

section
/-! Whole runs of `MOTOFF` and `CCSTEP` from an idle machine (45_motor.md section 3, 47_collision_fsm.md section 3). -/

namespace Sys2Proof.Machine

/-- A request at an idle sequencer, as the schedule's next entry (R40). -/
theorem step_accept {s : State} {r : Request} {rest : List Input} (h : s.inputs = .request r :: rest) (hp : s.pos = .idle) :
    step s = .next (latch r { s with inputs := rest }) :=
  (step_request h).trans (congrArg Host.Outcome.next (acceptRequest_idle (s := { s with inputs := rest }) r hp))

/-- A run whose first step is SEQ's step of the command in progress. -/
theorem run_seq {s t : State} {k n : Nat} {i : Instr} {rest : List Input} (h : s.inputs = .seq :: rest) (hp : s.pos = .busy k)
    (hd : decode (latched s) = .ok i) (he : exec i { s with inputs := rest } = .next t) :
    Sys2Proof.core.run (n + 1) s = Sys2Proof.core.run n t := run_succ ((step_seq h hp hd).trans he)

/-! ## `MOTOFF` -/

/-- `MOTOFF` takes an `Ok` before its last write (R190). -/
theorem exec_motoff_ok {s : State} {k : Nat} {tx : Transaction} {r : List Byte} (hp : s.pos = .busy k) (hk : k < 7)
    (hb : s.bus = .answered tx (.ok r)) : exec .motoff s = .next (goto (k + 1) { s with bus := .free }) := by
  rw [((motoffWritesEightChannelsOff k s hp (by omega)).2 tx r hb), if_pos hk]
  rfl

/-- `MOTOFF` takes its last `Ok` (R190). -/
theorem exec_motoff_last {s : State} {tx : Transaction} {r : List Byte} (hp : s.pos = .busy 7)
    (hb : s.bus = .answered tx (.ok r)) : exec .motoff s = .next (respond .ok 0 8 { s with bus := .free }) :=
  (motoffWritesEightChannelsOff 7 s hp (by decide)).2 tx r hb

/-- `all_off` is a list of writes. -/
theorem allOff_writes {cfg : Config} {k : Nat} {tx : Transaction} (h : (allOff cfg)[k]? = some tx) :
    ∃ dev bytes, tx = .write dev bytes := by
  obtain ⟨ch, -, rfl⟩ := List.mem_map.mp (List.mem_of_getElem? h)
  exact ⟨_, _, rfl⟩

/-- `drive_all` is a list of writes. -/
theorem driveAll_writes {cfg : Config} {d : Direction} {speed : Half} {k : Nat} {tx : Transaction}
    (h : (driveAll cfg d speed)[k]? = some tx) : ∃ dev bytes, tx = .write dev bytes := by
  obtain ⟨j, m, hm, rfl | rfl⟩ := driveAll_cases (k := k) (by simpa using (List.getElem?_eq_some_iff.mp h).1)
  · rw [driveAll_even hm] at h; cases h; exact ⟨_, _, rfl⟩
  · rw [driveAll_odd hm] at h; cases h; exact ⟨_, _, rfl⟩

/-- Settles O43: the request, the seven writes that go on to the next position, and the last one. -/
theorem motoffRunsToCompletion : Obligations.MotoffRunsToCompletion := by
  intro s a0 a1 rest hp hb hin
  have accepted := step_accept hin hp
  have seven := run_writes (i := .motoff) (rest := writeAnswered ++ rest) ((allOff s.cfg).take 7)
    (s := latch ⟨0x51000000, a0, a1⟩ { s with inputs := writesAnswered 8 ++ rest }) (k := 0) rfl rfl hb (decode_motoff a0 a1)
    (fun j tx hj => by
      rw [List.getElem?_take] at hj
      split at hj
      · exact ⟨allOff_writes hj, by rw [Nat.zero_add]; exact hj⟩
      · cases hj)
    (fun j u tx hj hpu _ _ hbu => exec_motoff_ok hpu (by rw [Nat.zero_add]; exact hj) hbu)
  have last := run_writeAnswered (i := .motoff) (rest := rest) (f := respond .ok 0 8) (k := 7)
    (s := { latch ⟨0x51000000, a0, a1⟩ { s with inputs := writesAnswered 8 ++ rest } with
      inputs := writeAnswered ++ rest, pos := .busy 7
      history := writesDone 0x51 ((allOff s.cfg).take 7) ++ s.history }) rfl rfl hb (decode_motoff a0 a1) rfl
    (fun u tx hpu _ _ hbu => exec_motoff_last hpu hbu)
  exact (run_succ accepted).trans ((run_add (n := 3) seven).trans (last.trans (by rw [hp]; rfl)))

/-! ## `CCSTEP` -/

/-- Machine `s` with the `CCSTEP` of two operand words latched, its sample taken, at position `k` with schedule `rest`. -/
def inCycle (s : State) (a0 a1 : Word) (k : Nat) (rest : List Input) : State :=
  { s with inputs := rest, cmd := 0x73000000, arg0 := a0, arg1 := a1, ccLive := unpack a0 a1, pos := .busy k,
           respValid := false }

section
variable {s : State} {a0 a1 : Word} {rest : List Input} {n : Nat}

/-- The command in progress is that `CCSTEP`. -/
theorem decode_inCycle (k : Nat) : decode (latched (inCycle s a0 a1 k rest)) = .ok (.ccstep (unpack a0 a1)) :=
  decode_ccstep a0 a1

/-- A run whose first step is SEQ's step of the cycle. -/
theorem run_inCycle {k : Nat} {t : State} (h : exec (.ccstep (unpack a0 a1)) (inCycle s a0 a1 k rest) = .next t) :
    Sys2Proof.core.run (n + 1) (inCycle s a0 a1 k (.seq :: rest)) = Sys2Proof.core.run n t :=
  run_seq rfl rfl (decode_inCycle k) h

/-- The request and position 0 (R40, R220). -/
theorem run_sample (hp : s.pos = .idle) (hin : s.inputs = .request ⟨0x73000000, a0, a1⟩ :: .seq :: rest) :
    Sys2Proof.core.run (n + 2) s = Sys2Proof.core.run n (inCycle s a0 a1 1 rest) := by
  have sampled := exec_ccstep_zero (s := latch ⟨0x73000000, a0, a1⟩ { s with inputs := rest }) (unpack a0 a1) rfl
  exact (run_succ (step_accept hin hp)).trans (run_seq rfl rfl (decode_ccstep a0 a1) sampled)

/-- Position 1 without a collision (R220). -/
theorem run_detect_quiet (h : detect (unpack a0 a1) (mean s.cfg s.win) = false) :
    Sys2Proof.core.run (n + 1) (inCycle s a0 a1 1 (.seq :: rest)) = Sys2Proof.core.run n (inCycle s a0 a1 22 rest) := by
  have hquiet := cycleFrom_quiet (s := inCycle s a0 a1 1 rest) rfl h
  exact run_inCycle ((exec_cycle rfl rfl).trans (congrArg Host.Outcome.next hquiet))

/-- Position 1 with a collision (R220). -/
theorem run_detect_hit (h : detect (unpack a0 a1) (mean s.cfg s.win) = true) :
    Sys2Proof.core.run (n + 1) (inCycle s a0 a1 1 (.seq :: rest)) = Sys2Proof.core.run n (inCycle s a0 a1 2 rest) := by
  have hhit := cycleFrom_hit (s := inCycle s a0 a1 1 rest) rfl h
  exact run_inCycle ((exec_cycle rfl rfl).trans (congrArg Host.Outcome.next hhit))

/-- Position 2 (R222). -/
theorem run_toggle : Sys2Proof.core.run (n + 1) (inCycle s a0 a1 2 (.seq :: rest)) =
    Sys2Proof.core.run n (inCycle { s with ccDir := s.ccDir.flip } a0 a1 3 rest) :=
  run_inCycle (exec_toggle rfl rfl)

/-- Positions 3 to 10, every off-write answered `Ok` (R223). -/
theorem run_allOff (hb : s.bus = .free) : Sys2Proof.core.run (24 + n) (inCycle s a0 a1 3 (writesAnswered 8 ++ rest)) =
    Sys2Proof.core.run n (inCycle { s with history := writesDone 0x73 (allOff s.cfg) ++ s.history } a0 a1 11 rest) := by
  refine run_add (run_writes (i := .ccstep (unpack a0 a1)) (allOff s.cfg) rfl rfl hb (decode_inCycle 3)
    (fun j tx hj => ⟨allOff_writes hj, ?_⟩) fun j u tx hj hp _ _ hbu => exec_stop_ok rfl hj hp hbu)
  have hj8 : j < 8 := (List.getElem?_eq_some_iff.mp hj).1
  rw [commandTx_cycle rfl (by omega), reactionTx, if_neg (by omega), if_pos (by omega), Nat.add_sub_cancel_left]
  exact hj

/-- Position 11 (R224). -/
theorem run_armSettle : Sys2Proof.core.run (n + 1) (inCycle s a0 a1 11 (.seq :: rest)) =
    Sys2Proof.core.run n (inCycle { s with ccSettle := s.tick + 1000 } a0 a1 12 rest) :=
  run_inCycle (exec_armSettle rfl rfl)

/-- Ticks during the cycle (R116). -/
theorem run_ticks {k : Nat} (m : Nat) (hen : s.tmrEn = true) (hpend : s.tickPend = false) :
    Sys2Proof.core.run (2 * m + n) (inCycle s a0 a1 k (ticks m ++ rest)) =
      Sys2Proof.core.run n (inCycle { s with tick := s.tick + BitVec.ofNat 32 m } a0 a1 k rest) :=
  run_add (oneTickPerPeriod m (inCycle s a0 a1 k (ticks m ++ rest)) rest hen hpend rfl)

/-- Position 12 once the settle target is reached (R224). -/
theorem run_settleDone (h : ready s.ccSettle s.tick = true) :
    Sys2Proof.core.run (n + 1) (inCycle s a0 a1 12 (.seq :: rest)) = Sys2Proof.core.run n (inCycle s a0 a1 13 rest) := by
  have hdone := cycleFrom_settleDone (s := inCycle s a0 a1 12 rest) rfl h
  exact run_inCycle ((exec_cycle rfl rfl).trans (congrArg Host.Outcome.next hdone))

/-- Positions 13 to 20, every drive write answered `Ok` (R225). -/
theorem run_driveAll (hb : s.bus = .free) : Sys2Proof.core.run (24 + n) (inCycle s a0 a1 13 (writesAnswered 8 ++ rest)) =
    Sys2Proof.core.run n (inCycle
      { s with history := writesDone 0x73 (driveAll s.cfg s.ccDir (driveSpeed s.cfg)) ++ s.history } a0 a1 21 rest) := by
  refine run_add (run_writes (i := .ccstep (unpack a0 a1)) (driveAll s.cfg s.ccDir (driveSpeed s.cfg)) rfl rfl hb
    (decode_inCycle 13) (fun j tx hj => ⟨driveAll_writes hj, ?_⟩) fun j u tx hj hp _ _ hbu => exec_drive_ok rfl hj hp hbu)
  have hj8 : j < 8 := (List.getElem?_eq_some_iff.mp hj).1
  rw [commandTx_cycle rfl (by omega), reactionTx, if_neg (by omega), if_neg (by omega), if_neg (by omega), if_pos (by omega),
    Nat.add_sub_cancel_left]
  exact hj

/-- Position 21 (R226). -/
theorem run_indicate : Sys2Proof.core.run (n + 1) (inCycle s a0 a1 21 (.seq :: rest)) =
    Sys2Proof.core.run n (inCycle { s with
      history := .indicator (if s.ccDir = .forward then s.cfg.indFwd else s.cfg.indBwd) :: s.history } a0 a1 22 rest) :=
  run_inCycle (exec_indicate rfl rfl)

/-- Position 22 (R220). -/
theorem run_finish {b : Bool} (h : detect (unpack a0 a1) (mean s.cfg s.win) = b) :
    Sys2Proof.core.run (n + 1) (inCycle s a0 a1 22 (.seq :: rest)) = Sys2Proof.core.run n { s with
      inputs := rest, cmd := 0x73000000, arg0 := a0, arg1 := a1, ccLive := unpack a0 a1, pos := .idle,
      win := ⟨s.win.w1, s.win.w2, s.win.w3, s.win.w4, unpack a0 a1⟩,
      resp := ⟨.ok, if b then 1 else 0, if s.ccDir = .backward then 1 else 0⟩, respValid := true } := by
  subst h
  exact run_inCycle (exec_finish rfl rfl)

end

/-- Settles O52: after the sample, position 1 goes to the push. -/
theorem quietCycleOnlyPushes : Obligations.QuietCycleOnlyPushes := by
  intro s a0 a1 rest hp hin hquiet
  refine (run_sample (n := 2) hp hin).trans ((run_detect_quiet hquiet).trans ((run_finish hquiet).trans ?_))
  rw [← hp]
  rfl

/-! ### The reaction (R222 to R226) -/

section
variable {s : State} {a0 a1 : Word} {rest : List Input} {n : Nat}

/-- What the first half of a reaction makes of `s`, beside the registers of the command in progress. -/
def stopped (s : State) : State :=
  { s with ccDir := s.ccDir.flip, ccSettle := s.tick + 1000, history := writesDone 0x73 (allOff s.cfg) ++ s.history }

/-- The first half of a reaction: toggle, eight off-writes, capture of the settle target. -/
theorem run_stop (hp : s.pos = .idle) (hb : s.bus = .free) (hhit : detect (unpack a0 a1) (mean s.cfg s.win) = true)
    (hin : s.inputs = stopSchedule a0 a1 ++ rest) :
    Sys2Proof.core.run (29 + n) s = Sys2Proof.core.run n (inCycle (stopped s) a0 a1 12 rest) := by
  have hin' : s.inputs = .request ⟨0x73000000, a0, a1⟩ :: .seq :: .seq :: .seq :: (writesAnswered 8 ++ .seq :: rest) := by
    rw [hin]
    simp [stopSchedule]
  rw [show 29 + n = 24 + (n + 1) + 1 + 1 + 2 by omega]
  calc Sys2Proof.core.run (24 + (n + 1) + 1 + 1 + 2) s
      = Sys2Proof.core.run (24 + (n + 1) + 1 + 1) (inCycle s a0 a1 1 _) := run_sample hp hin'
    _ = Sys2Proof.core.run (24 + (n + 1) + 1) (inCycle s a0 a1 2 _) := run_detect_hit hhit
    _ = Sys2Proof.core.run (24 + (n + 1)) (inCycle { s with ccDir := s.ccDir.flip } a0 a1 3 _) := run_toggle
    _ = Sys2Proof.core.run (n + 1) (inCycle { s with
          ccDir := s.ccDir.flip, history := writesDone 0x73 (allOff s.cfg) ++ s.history } a0 a1 11 _) := run_allOff hb
    _ = _ := run_armSettle

/-- The second half, once the settle target is reached: eight drive writes, the indicator event, the push. -/
theorem run_drive (hb : s.bus = .free) (hhit : detect (unpack a0 a1) (mean s.cfg s.win) = true)
    (hr : ready s.ccSettle s.tick = true) :
    Sys2Proof.core.run 27 (inCycle s a0 a1 12 (.seq :: (writesAnswered 8 ++ (.seq :: .seq :: rest)))) = .next { s with
      inputs := rest, cmd := 0x73000000, arg0 := a0, arg1 := a1, ccLive := unpack a0 a1, pos := .idle
      win := ⟨s.win.w1, s.win.w2, s.win.w3, s.win.w4, unpack a0 a1⟩
      resp := ⟨.ok, 1, if s.ccDir = .backward then 1 else 0⟩, respValid := true
      history := .indicator (if s.ccDir = .forward then s.cfg.indFwd else s.cfg.indBwd)
        :: (writesDone 0x73 (driveAll s.cfg s.ccDir (driveSpeed s.cfg)) ++ s.history) } := by
  calc Sys2Proof.core.run (24 + 2 + 1) (inCycle s a0 a1 12 (.seq :: (writesAnswered 8 ++ (.seq :: .seq :: rest))))
      = Sys2Proof.core.run (24 + 2) (inCycle s a0 a1 13 _) := run_settleDone hr
    _ = Sys2Proof.core.run (1 + 1) (inCycle { s with
          history := writesDone 0x73 (driveAll s.cfg s.ccDir (driveSpeed s.cfg)) ++ s.history } a0 a1 21 _) := run_driveAll hb
    _ = Sys2Proof.core.run (0 + 1) (inCycle { s with
          history := .indicator (if s.ccDir = .forward then s.cfg.indFwd else s.cfg.indBwd)
            :: (writesDone 0x73 (driveAll s.cfg s.ccDir (driveSpeed s.cfg)) ++ s.history) } a0 a1 22 _) := run_indicate
    _ = _ := run_finish hhit

end

/-- Settles O53: both clauses run the first half and the ticks; by `ready_armed_iff` the settle target, armed 1000 ticks ahead, is
reached exactly from the thousandth tick on. -/
theorem collisionReactionCompletes : Obligations.CollisionReactionCompletes := by
  intro s a0 a1 hp hb hen hpend hhit
  have settled : ∀ m, m < 1000 + 2 ^ 31 → (ready (s.tick + 1000) (s.tick + BitVec.ofNat 32 m) = true ↔ 1000 ≤ m) :=
    fun m hm => ready_armed_iff (by decide) hm
  refine ⟨fun m j rest hm hin => ?_, fun n rest hn hlt hin => ?_⟩
  · have hr : ready (s.tick + 1000) (s.tick + BitVec.ofNat 32 m) = false :=
      Bool.eq_false_of_not_eq_true fun h => absurd ((settled m (by omega)).mp h) (by omega)
    rw [Nat.add_assoc]
    calc Sys2Proof.core.run (29 + (2 * m + j)) s
        = Sys2Proof.core.run (2 * m + j) (inCycle (stopped s) a0 a1 12 _) := run_stop hp hb hhit hin
      _ = Sys2Proof.core.run j (inCycle { stopped s with tick := s.tick + BitVec.ofNat 32 m } a0 a1 12 _) :=
          run_ticks (s := stopped s) m hen hpend
      _ = _ := run_settleHold j rfl rfl rfl (decode_inCycle 12) hr
  · have hr := (settled n hlt).mpr hn
    have hin' : s.inputs = stopSchedule a0 a1 ++ (ticks n ++ (.seq :: (writesAnswered 8 ++ (.seq :: .seq :: rest)))) := by
      rw [hin]
      simp [reactionSchedule]
    rw [show 56 + 2 * n = 29 + (2 * n + 27) by omega]
    calc Sys2Proof.core.run (29 + (2 * n + 27)) s
        = Sys2Proof.core.run (2 * n + 27) (inCycle (stopped s) a0 a1 12 _) := run_stop hp hb hhit hin'
      _ = Sys2Proof.core.run 27 (inCycle { stopped s with tick := s.tick + BitVec.ofNat 32 n } a0 a1 12 _) :=
          run_ticks (s := stopped s) n hen hpend
      _ = _ := run_drive (s := { stopped s with tick := s.tick + BitVec.ofNat 32 n }) hb hhit hr
      _ = _ := by rw [← hp]; rfl

end Sys2Proof.Machine
end
